-- ==== Sys2Proof/Word.lean ====
section
/-! DEFINITION. The word types of the front-panel I/O block (spec/00_scope.md R10: bit 0 is the
least significant bit, every value is unsigned). -/

namespace Sys2Proof

/-- One byte of the command stream, of a response or of the serial bus. -/
abbrev Byte := BitVec 8

/-- A converter reading or a published average (10_state.md R38: 10 bits). -/
abbrev Reading := BitVec 10

/-- The 64-bit frame word F (30_encoding.md R105). -/
abbrev FrameWord := BitVec 64

/-- A vector of keys: bit k (`testBit k`) belongs to key k. Its width KW, or NUM_BTN or NUM_AKEY for
a part of it, is a parameter of the configuration (00_scope.md R7), so the type carries no width; the
invariant of Safety.lean says that no bit at or above KW is ever set. -/
abbrev KeyVec := Nat

end Sys2Proof
end

