-- ==== Sys2Proof/Config.lean ====
section
/-! DEFINITION. The parameters of the block (spec/00_scope.md R7, Table P): those the spec fixes are
the constants `Param.*`, those it leaves OPEN or lets a model take as an argument are the fields of
`Config`. The fixture T0 of 95_test_vectors.md is one configuration. -/

namespace Sys2Proof

/-- NUM_POS, the number of display positions (R7). -/
abbrev Param.numPos : Nat := 8
/-- SEGS_PER_POS, segments a, b, c, d, e, f, g1, g2, h, i, j, k, l, m in this order (R7). -/
abbrev Param.segsPerPos : Nat := 14
/-- MEM_BITS, three words of 64 bits (R7). -/
abbrev Param.memBits : Nat := 192
/-- CHUNK_BITS, payload bits of a frame (R7). -/
abbrev Param.chunkBits : Nat := 52
/-- DD_BITS, width of the chunk index of a frame (R7). -/
abbrev Param.ddBits : Nat := 2
/-- FRAME_BYTES (R7, R101). -/
abbrev Param.frameBytes : Nat := 8
/-- INIT_FRAMES, how many frames after reset carry the reset flag (R7). -/
abbrev Param.initFrames : Nat := 4
/-- FONT_FIRST (R7, R112). -/
abbrev Param.fontFirst : Nat := 0x20
/-- FONT_LAST (R7, R112). -/
abbrev Param.fontLast : Nat := 0x7E
/-- MAX_CHANNELS (R7, R37). -/
abbrev Param.maxChannels : Nat := 10

/-- Where each field of the frame word stands: its lowest bit (30_encoding.md R105, Table L). -/
structure FrameLayout where
  data : Nat
  cu : Nat
  p : Nat
  dr : Nat
  sc : Nat
  bu : Nat
  dd : Nat
deriving DecidableEq, Repr

/-- Table L of R105: data, then control; F[53:52] reserved and sent as 0. -/
def Param.frameLayout : FrameLayout :=
  { data := 0, cu := 54, p := 55, dr := 59, sc := 60, bu := 61, dd := 62 }

/-- A SegmentAddress as it is stored: word_index in bits 7..6, bit_index in bits 5..0, which is its
linear index (30_encoding.md R111). -/
abbrev SegmentAddress := BitVec 8

/-- One entry of the threshold table: a breakpoint and the key mask of its bucket (30_encoding.md R113). -/
structure ThresholdEntry where
  thresh : BitVec 10
  mask : KeyVec
deriving DecidableEq, Repr

/-- The parameters a model takes as configuration arguments (00_scope.md R7). They do not change
during a run (10_state.md R21). -/
structure Config where
  /-- SEGMENT_COUNT, how many bits of DisplayMemory are sent (R7, D1). -/
  segmentCount : Nat
  /-- DEV_ADDR, the device address byte (R7, D4). -/
  devAddr : Byte
  /-- FONT, one 16-bit mask per code from FONT_FIRST on (R112). -/
  font : List (BitVec 16)
  /-- CHAR_MAP[p][i], the address of segment i of position p (R7). -/
  charMap : List (List SegmentAddress)
  /-- ICON_MAP[k], the address of icon k; NUM_ICONS is its length (R7, D31). -/
  iconMap : List SegmentAddress
  /-- N, the debounce depth (R7, D17). -/
  depth : Nat
  /-- NUM_BTN, physical button bits (R7, D31). -/
  numBtn : Nat
  /-- NUM_AKEY, analog key bits (R7, D20). -/
  numAKey : Nat
  /-- THRESH[0..NT-1] with KEYMASK[0..NT-1]; NT is its length (R7, R113). -/
  thresholds : List ThresholdEntry
  /-- KEY_CHANNEL, the channel the classifier reads (R7, D19). -/
  keyChannel : Nat
  /-- BUS_MAY_HANG (R7, D29). -/
  busMayHang : Bool
deriving DecidableEq, Repr

/-- NUM_CHUNKS = SEGMENT_COUNT / 52 (R7). -/
def Config.numChunks (c : Config) : Nat := c.segmentCount / Param.chunkBits
/-- NUM_ICONS (R7). -/
def Config.numIcons (c : Config) : Nat := c.iconMap.length
/-- KW = NUM_BTN + NUM_AKEY, the width of the key vector (R7). -/
def Config.kw (c : Config) : Nat := c.numBtn + c.numAKey
/-- KB = ceil(KW / 8), the bytes of a key vector (30_encoding.md R98). -/
def Config.kb (c : Config) : Nat := (c.kw + 7) / 8
/-- AB = max(1, ceil(NUM_AKEY / 8)), the bytes of an analog key mask (R98). -/
def Config.ab (c : Config) : Nat := max 1 ((c.numAKey + 7) / 8)

/-- The fixture T0 of 95_test_vectors.md section 1: a test fixture, not data of the source. -/
def Config.t0 : Config where
  segmentCount := 156
  devAddr := 0x41
  font := (List.range 95).map fun k =>
    if k = 0x2A - 0x20 then 0xFFFF
    else if k = 0x31 - 0x20 then 0x0006
    else if k = 0x38 - 0x20 then 0x00FF
    else if k = 0x41 - 0x20 then 0x00F7
    else 0x0000
  charMap := (List.range 8).map fun p => (List.range 14).map fun i => BitVec.ofNat 8 (14 * p + i)
  iconMap := (List.range 28).map fun k => BitVec.ofNat 8 (112 + k)
  depth := 10
  numBtn := 8
  numAKey := 3
  thresholds := [⟨224, 0b001⟩, ⟨185, 0b010⟩, ⟨168, 0b100⟩, ⟨0, 0b000⟩]
  keyChannel := 0
  busMayHang := false

end Sys2Proof
end

