-- ==== Sys2Proof/Machine/State.lean ====
section
/-! DEFINITION. The state of the block as plain data (spec/10_state.md, Table S of R42), the fields
the model adds to run it (its configuration, the environment's draws, the responses), the outcomes
of a step, and the state after RESET (70_reset_and_hazards.md R300). -/

namespace Sys2Proof.Machine

/-- DisplayMemory W[0..2], three words of 64 bits (10_state.md R22). -/
structure DisplayMemory where
  w0 : BitVec 64
  w1 : BitVec 64
  w2 : BitVec 64
deriving DecidableEq, Repr

/-- The frame template `tpl` (R23). -/
structure Template where
  /-- cascade-enable flag -/
  cu : Bool
  /-- port/brightness field -/
  p : BitVec 4
  /-- standby/reset flag -/
  dr : Bool
  /-- mode flag -/
  sc : Bool
  /-- test/blink flag -/
  bu : Bool
deriving DecidableEq, Repr

/-- One event on the serial bus (00_scope.md R14, 10_state.md R31). -/
inductive BusEvent where
  /-- chip-select goes low -/
  | csLow
  /-- eight bits, low bit first -/
  | byte (b : Byte)
  /-- chip-select goes high -/
  | csHigh
deriving DecidableEq, Repr

/-- One record of the channel table (R38). -/
structure Channel where
  /-- channel selector -/
  sel : Byte
  /-- reference-voltage selection -/
  ref : BitVec 2
  /-- resolution: false 8-bit, true 10-bit -/
  res : Bool
  /-- number of samples to average -/
  ns : Byte
  /-- the last published average -/
  result : Reading
  /-- the ready flag -/
  ready : Bool
deriving DecidableEq, Repr

/-- A record whose every field is 0, as RESET leaves it (R38, R300). -/
def Channel.zero : Channel := { sel := 0, ref := 0, res := false, ns := 0, result := 0, ready := false }

/-- The status byte of a response (60_exceptions.md R261, Table E). -/
inductive Status where
  /-- 0x00, the command completed -/
  | ok
  /-- 0x01, ConfigurationError, OutOfRange -/
  | cfgErr
  /-- 0x02, CapacityError, TooManyChannels -/
  | capErr
  /-- 0x03, no new sample -/
  | noData
deriving DecidableEq, Repr

/-- One response of the block: status and payload (30_encoding.md R98). -/
structure Response where
  status : Status
  payload : List Byte
deriving DecidableEq, Repr

/-- One arrival at the ports of the block (60_exceptions.md R275, Table X). -/
inductive Input where
  /-- a byte of the command stream, on `cmd` -/
  | byte (b : Byte)
  /-- the `tick` strobe with the levels of `pins` -/
  | tick (pins : KeyVec)
  /-- the `adc_done` strobe with `adc_data` -/
  | adcDone (r : Reading)
  /-- the `rst` input -/
  | reset
deriving DecidableEq, Repr

/-- The state. From `mem` to `running` it is Table S of 10_state.md (R42); `cfg` holds the parameters
of the step (R21), which no step writes; the fields from `hung` on are the model's own: the stuck
command of 60_exceptions.md R266, the environment's draws, and the responses given (R322). -/
@[ext]
structure State where
  cfg : Config
  /-- DisplayMemory W[0..2] (R22) -/
  mem : DisplayMemory
  /-- frame template (R23) -/
  tpl : Template
  /-- reset-frame counter init_left, 0..4 (R25) -/
  initLeft : BitVec 3
  /-- bus output trace since RESET (R31) -/
  bus : List BusEvent
  /-- sample ring, N entries of KW bits (R32) -/
  ring : List KeyVec
  /-- ring index (R33) -/
  ridx : Nat
  /-- debounced state (R34) -/
  stable : KeyVec
  /-- change vector (R35) -/
  changed : KeyVec
  /-- channel count (R37) -/
  nchan : Nat
  /-- channel table, MAX_CHANNELS records (R38) -/
  chan : List Channel
  /-- channel cursor (R39) -/
  cur : Nat
  /-- accumulator (R40) -/
  acc : BitVec 18
  /-- sample counter (R40) -/
  cnt : BitVec 8
  /-- run flag (R41) -/
  running : Bool
  /-- the model's own: a display command has stopped for ever (60_exceptions.md R266) -/
  hung : Bool
  /-- the model's own: at each coming bus event, whether the bus stops acknowledging after it; read
  only when BUS_MAY_HANG is true, and an exhausted list never stops (R266) -/
  busDraws : List Bool
  /-- the model's own: the responses given so far, in order (30_encoding.md R98, R322) -/
  rsp : List Response
  /-- the model's own: the bytes received of a command that is not yet whole (R92) -/
  rx : List Byte
  /-- the model's own: the arrivals to come, in their order (00_scope.md R16, 20_memory.md R74) -/
  inputs : List Input
deriving DecidableEq, Repr

/-- Why the machine stops with a fault: never. Every error of the block is a status of a response
(60_exceptions.md R260, R272), so there is no constructor. -/
inductive Fault where
deriving DecidableEq, Repr

/-- Why a step has no meaning. -/
inductive Refusal where
  /-- An instruction whose arm of `exec` has no meaning yet; raised by `exec` alone. Safe: the model
  stops where the block goes on. -/
  | notModelled (mnemonic : String)
  /-- The configuration is not well-formed (00_scope.md R8, 60_exceptions.md R264); raised by `step`
  alone. Safe: no run of such a configuration exists. -/
  | illFormedConfig
deriving DecidableEq, Repr

/-- Table S right after RESET (R300), for a configuration; the model's own fields start empty. -/
def State.initial (c : Config) : State where
  cfg := c
  mem := { w0 := 0, w1 := 0, w2 := 0 }
  tpl := { cu := false, p := 0, dr := false, sc := false, bu := false }
  initLeft := 4
  bus := []
  ring := List.replicate c.depth 0
  ridx := 0
  stable := 0
  changed := 0
  nchan := 0
  chan := List.replicate Param.maxChannels Channel.zero
  cur := 0
  acc := 0
  cnt := 0
  running := false
  hung := false
  busDraws := []
  rsp := []
  rx := []
  inputs := []

/-- The machine right after reset, with the fixture configuration T0 (DESIGN CHOICE, unsafe: the
tables are OPEN parameters; log 1). Nothing has arrived yet. -/
def State.reset : State := State.initial Config.t0

end Sys2Proof.Machine
end

