-- ==== Sys2Proof/Machine/Flags.lean ====
section
/-! DEFINITION. The flags of the block: the edge views of the debouncer (spec/10_state.md R36) and the
bitwise operations within the width of a key vector (00_scope.md R10). -/

namespace Sys2Proof.Machine

/-- NOT of a vector of `n` bits, taken within the width (00_scope.md R10). -/
def notWithin (n : Nat) (v : KeyVec) : KeyVec := (2 ^ n - 1) ^^^ (v % 2 ^ n)

/-- pressed = changed AND stable (R36). -/
def State.pressed (s : State) : KeyVec := s.changed &&& s.stable

/-- released = changed AND NOT stable (R36). -/
def State.released (s : State) : KeyVec := s.changed &&& notWithin s.cfg.kw s.stable

/-- The AND of all entries of the ring (41_debounce.md R171). -/
def andAll : List KeyVec → KeyVec
  | [] => 0
  | v :: vs => vs.foldl (· &&& ·) v

/-- changed = previous stable XOR new stable (R171). -/
def changedBits (old new : KeyVec) : KeyVec := old ^^^ new

end Sys2Proof.Machine
end

