-- ==== Sys2Proof/Machine/Operands.lean ====
section
/-! DEFINITION. Operand forms: the table-indirect bit addresses of the display family
(spec/40_display.md R147), the font and threshold tables, the sample of a reading, and little-endian
payload bytes. -/

namespace Sys2Proof.Machine

/-- word_index of a stored SegmentAddress (30_encoding.md R111). -/
def wordIndex (a : SegmentAddress) : BitVec 2 := a.extractLsb' 6 2

/-- bit_index of a stored SegmentAddress (R111). -/
def bitIndex (a : SegmentAddress) : BitVec 6 := a.extractLsb' 0 6

/-- L = 64 word_index + bit_index (20_memory.md R61). -/
def linearIndex (a : SegmentAddress) : Nat := 64 * (wordIndex a).toNat + (bitIndex a).toNat

/-- CHAR_MAP[pos][i] (00_scope.md R7). -/
def charAddr (c : Config) (pos i : Nat) : SegmentAddress := (c.charMap.getD pos []).getD i 0

/-- ICON_MAP[sym] (R7). -/
def iconAddr (c : Config) (sym : Nat) : SegmentAddress := c.iconMap.getD sym 0

/-- The code is in FONT_FIRST..FONT_LAST (40_display.md R137). -/
def inFont (chr : Byte) : Bool :=
  decide (Param.fontFirst ≤ chr.toNat) && decide (chr.toNat ≤ Param.fontLast)

/-- FONT[chr], indexed by chr - FONT_FIRST (30_encoding.md R112). -/
def fontMask (c : Config) (chr : Byte) : BitVec 16 := c.font.getD (chr.toNat - Param.fontFirst) 0

/-- The first entry of a threshold table that `v` is not below, else no key (43_keyclass.md R240). -/
def classifyIn : List ThresholdEntry → Reading → KeyVec
  | [], _ => 0
  | e :: es, v => if e.thresh ≤ v then e.mask else classifyIn es v

/-- classify(v) (R240). -/
def classify (c : Config) (v : Reading) : KeyVec := classifyIn c.thresholds v

/-- The sample of a reading: r[9:0] in 10-bit mode, r[7:0] in 8-bit mode (42_adcmux.md R203). -/
def sample (res : Bool) (r : Reading) : BitVec 18 :=
  if res then r.setWidth 18 else (r.extractLsb' 0 8).setWidth 18

/-- A number as `n` bytes, low byte first (20_memory.md R66, 30_encoding.md R98). -/
def bytesLE (n v : Nat) : List Byte := (List.range n).map fun k => BitVec.ofNat 8 (v >>> (8 * k))

/-- A one-byte payload 0x00 or 0x01 (R98, Table R). -/
def boolByte (b : Bool) : Byte := if b then 1 else 0

end Sys2Proof.Machine
end

