-- ==== Sys2Proof/Machine/Ops.lean ====
section
/-! DEFINITION. The named operations over DisplayMemory, the serial bus, the channel table and the
response stream: spec/00_scope.md R12 to R15, 20_memory.md R61, R62, 30_encoding.md R105 to R109,
40_display.md R131 to R133, 60_exceptions.md R261, R266. -/

namespace Sys2Proof.Machine

/-! ### DisplayMemory -/

/-- W[i] (00_scope.md R11); i is in 0..2 wherever a rule reads it. -/
def DisplayMemory.word (m : DisplayMemory) : Nat → BitVec 64
  | 0 => m.w0
  | 1 => m.w1
  | 2 => m.w2
  | _ => 0

/-- W[i] <- v. -/
def DisplayMemory.setWord (m : DisplayMemory) (i : Nat) (v : BitVec 64) : DisplayMemory :=
  match i with
  | 0 => { m with w0 := v }
  | 1 => { m with w1 := v }
  | 2 => { m with w2 := v }
  | _ => m

/-- M[L] = W[L div 64][L mod 64] (20_memory.md R61). -/
def DisplayMemory.bit (m : DisplayMemory) (L : Nat) : Bool := (m.word (L / 64)).getLsbD (L % 64)

/-- Bit `i` of a word set or cleared, the others kept. -/
def setBitOf (w : BitVec 64) (i : Nat) (b : Bool) : BitVec 64 :=
  if b then w ||| (1#64 <<< i) else w &&& ~~~(1#64 <<< i)

/-- MemWrite(L, 1, b): a single-bit set or clear (00_scope.md R12). -/
def DisplayMemory.setBit (m : DisplayMemory) (L : Nat) (b : Bool) : DisplayMemory :=
  m.setWord (L / 64) (setBitOf (m.word (L / 64)) (L % 64) b)

/-- The 192 bits as one number, linear index 0 lowest (20_memory.md R61). -/
def DisplayMemory.flat (m : DisplayMemory) : BitVec 192 := m.w2 ++ (m.w1 ++ m.w0)

/-- MemWrite(L, n, v): bits L..L+n-1 take the bits of `v`, for L + n <= 192 (00_scope.md R12). -/
def DisplayMemory.write (m : DisplayMemory) (L n : Nat) (v : BitVec n) : DisplayMemory :=
  (List.range n).foldl (fun m j => m.setBit (L + j) (v.getLsbD j)) m

/-- MemRead(L, n), for L + n <= 192 (00_scope.md R12). -/
def DisplayMemory.read (m : DisplayMemory) (L n : Nat) : BitVec n := m.flat.extractLsb' L n

/-- All 192 bits 0, what DISP_CLEAR writes (40_display.md R136). -/
def DisplayMemory.zero : DisplayMemory := { w0 := 0, w1 := 0, w2 := 0 }

/-- Chunk i: bits 52i..52i+51 of DisplayMemory, 52 zero bits from NUM_CHUNKS on (20_memory.md R62). -/
def chunk (c : Config) (m : DisplayMemory) (i : Nat) : BitVec 52 :=
  if i < c.numChunks then m.read (52 * i) 52 else 0

/-! ### Frames -/

/-- The frame word of a layout record: data OR the control fields, each shifted to its place
(30_encoding.md R106). -/
def packFrameAt (l : FrameLayout) (data : BitVec 52) (cu : Bool) (p : BitVec 4) (dr sc bu : Bool)
    (dd : BitVec 2) : FrameWord :=
  (data.setWidth 64 <<< l.data) ||| ((BitVec.ofBool cu).setWidth 64 <<< l.cu)
    ||| (p.setWidth 64 <<< l.p) ||| ((BitVec.ofBool dr).setWidth 64 <<< l.dr)
    ||| ((BitVec.ofBool sc).setWidth 64 <<< l.sc) ||| ((BitVec.ofBool bu).setWidth 64 <<< l.bu)
    ||| (dd.setWidth 64 <<< l.dd)

/-- The frame word of R105: a chunk, the template with the given `dr`, and the chunk index. -/
def packFrame (data : BitVec 52) (t : Template) (dr : Bool) (i : Nat) : FrameWord :=
  packFrameAt Param.frameLayout data t.cu t.p dr t.sc t.bu (BitVec.ofNat 2 i)

/-- B[j] = F[8j+7:8j], j = 0..7 (R106, 20_memory.md R65). -/
def frameBytes (F : FrameWord) : List Byte :=
  (List.range Param.frameBytes).map fun j => F.extractLsb' (8 * j) 8

/-- One bus transaction: CS_LOW, the device address, the eight frame bytes, CS_HIGH
(30_encoding.md R108). -/
def frameEvents (c : Config) (F : FrameWord) : List BusEvent :=
  .csLow :: .byte c.devAddr :: ((frameBytes F).map .byte ++ [.csHigh])

/-- The frame of `emit_frame(i)`: dr is forced to 1 while init_left is not 0 (40_display.md R132). -/
def frameWord (s : State) (i : Nat) : FrameWord :=
  packFrame (chunk s.cfg s.mem i) s.tpl (s.tpl.dr || s.initLeft != 0#3) i

/-! ### The serial bus -/

/-- bus_emit(e) (00_scope.md R14). With BUS_MAY_HANG the block may stop for ever right after the
event (60_exceptions.md R266): the environment's next draw says so. A hung block emits nothing. -/
def busEmit (s : State) (e : BusEvent) : State :=
  if s.hung then s
  else if s.cfg.busMayHang then
    { s with bus := s.bus ++ [e], hung := s.busDraws.headD false, busDraws := s.busDraws.tail }
  else { s with bus := s.bus ++ [e] }

/-- The events of a list, in order. -/
def busEmitAll (es : List BusEvent) (s : State) : State := es.foldl busEmit s

/-- send_frame(F) (40_display.md R131). -/
def sendFrame (F : FrameWord) (s : State) : State := busEmitAll (frameEvents s.cfg F) s

/-- The count-down of init_left after a frame has been sent (R132). -/
def countFrame (s : State) : State :=
  if s.hung then s
  else if s.initLeft != 0#3 then { s with initLeft := s.initLeft - 1#3 } else s

/-- emit_frame(i) (R132). -/
def emitFrame (s : State) (i : Nat) : State := countFrame (sendFrame (frameWord s i) s)

/-- emit_frame(i) for i in 0..n-1, ascending (R133, R135). -/
def emitFrames (n : Nat) (s : State) : State := (List.range n).foldl emitFrame s

/-- encode_and_send() (R133). -/
def encodeAndSend (s : State) : State := emitFrames s.cfg.numChunks s

/-- The bits of a bus event on the data line, first bit first (30_encoding.md R109). -/
def BusEvent.serialBits : BusEvent → List Bool
  | .byte b => (List.range 8).map b.getLsbD
  | .csLow => []
  | .csHigh => []

/-- The data line `sdo` over a trace (R109, 60_exceptions.md R275). -/
def serialBits (es : List BusEvent) : List Bool := es.flatMap BusEvent.serialBits

/-- The chip-select line cs_n after a trace that starts from level `h`: low exactly between a CS_LOW
and the next CS_HIGH (30_encoding.md R110). -/
def chipSelectFrom (h : Bool) : List BusEvent → Bool
  | [] => h
  | .csLow :: es => chipSelectFrom false es
  | .csHigh :: es => chipSelectFrom true es
  | .byte _ :: es => chipSelectFrom h es

/-- The output cs_n, high after RESET (10_state.md R31). -/
def State.csN (s : State) : Bool := chipSelectFrom true s.bus

/-! ### Commands and responses -/

/-- The code of a status (60_exceptions.md R261, Table E). -/
def Status.code : Status → Byte
  | .ok => 0x00
  | .cfgErr => 0x01
  | .capErr => 0x02
  | .noData => 0x03

/-- The bytes of a response: status first, then the payload (30_encoding.md R98). -/
def Response.bytes (r : Response) : List Byte := r.status.code :: r.payload

/-- The byte stream on `rsp` (60_exceptions.md R275). -/
def State.rspBytes (s : State) : List Byte := s.rsp.flatMap Response.bytes

/-- respond(status, payload) (00_scope.md R15). A hung command never responds (60_exceptions.md R266). -/
def respond (st : Status) (payload : List Byte) (s : State) : State :=
  if s.hung then s else { s with rsp := s.rsp ++ [⟨st, payload⟩] }

/-- raise <Error>: TAKING AN EXCEPTION on this block. Nothing is saved and control goes nowhere: the
command ends, what it wrote before stays, and the response carries the status alone
(00_scope.md R13, 60_exceptions.md R261, R272). There is nothing to return from (R273). -/
def raise (st : Status) (s : State) : State := respond st [] s

/-- The step of a host command. A hung block accepts no command (60_exceptions.md R266). -/
def command (body : State → State) (s : State) : Host.Outcome State Fault Refusal :=
  if s.hung then .next s else .next (body s)

/-- The step of an event; events are served by a hung block too, and never raise (R263, R266). -/
def event (body : State → State) (s : State) : Host.Outcome State Fault Refusal := .next (body s)

/-! ### The channel table -/

/-- chan[i] (10_state.md R38); i is below MAX_CHANNELS wherever a rule reads it. -/
def State.chanAt (s : State) (i : Nat) : Channel := s.chan.getD i Channel.zero

/-- chan[i] <- ch. -/
def State.setChan (s : State) (i : Nat) (ch : Channel) : State := { s with chan := s.chan.set i ch }

end Sys2Proof.Machine
end

