-- ==== Sys2Proof/Machine/AdcMux.lean ====
section
/-! DEFINITION. The AnalogChannelMux (spec/42_adcmux.md): ADC_REG, ADC_GET, the ADC_DONE event, and
the outputs to the converter (R200, 60_exceptions.md R275). -/

namespace Sys2Proof.Machine

/-- adc_start: a conversion is armed (60_exceptions.md R275). -/
def State.adcStart (s : State) : Bool := s.running
/-- adc_mux = chan[cur].sel (10_state.md R41). -/
def State.adcMux (s : State) : Byte := (s.chanAt s.cur).sel
/-- adc_ref = chan[cur].ref (10_state.md R41). -/
def State.adcRef (s : State) : BitVec 2 := (s.chanAt s.cur).ref
/-- adc_res = chan[cur].res (10_state.md R41). -/
def State.adcRes (s : State) : Bool := (s.chanAt s.cur).res

/-- The first registration starts the sampler at channel 0; a later one leaves it alone (R201, R202 (a)). -/
def startSampler (s : State) : State :=
  if s.running then s else { s with cur := 0, acc := 0, cnt := 0, running := true }

/-- A new record at index nchan, and nchan + 1 (R201). -/
def addChannel (sel : Byte) (ref : BitVec 2) (res : Bool) (ns : Byte) (s : State) : State :=
  { s.setChan s.nchan { sel := sel, ref := ref, res := res, ns := ns, result := 0, ready := false } with
    nchan := s.nchan + 1 }

/-- ADC_REG: the capacity check comes before the check of ns (R201, 60_exceptions.md R265). -/
def execAdcReg (sel : Byte) (ref : BitVec 2) (res : Bool) (ns : Byte) (s : State) :
    Host.Outcome State Fault Refusal :=
  command (fun s =>
    if Param.maxChannels ≤ s.nchan then raise .capErr s
    else if ns = 0 then raise .cfgErr s
    else respond .ok [BitVec.ofNat 8 s.nchan] (startSampler (addChannel sel ref res ns s))) s

/-- The publish of a full group: the floor of the mean, the ready flag, and the next channel (R203). -/
def publish (acc : BitVec 18) (s : State) : State :=
  let ch := s.chanAt s.cur
  { s.setChan s.cur { ch with result := (acc / ch.ns.setWidth 18).setWidth 10, ready := true } with
    cur := (s.cur + 1) % s.nchan
    acc := 0
    cnt := 0 }

/-- One reading while the sampler runs: accumulate it, and publish when it is the ns-th (R203). -/
def takeReading (r : Reading) (s : State) : State :=
  let ch := s.chanAt s.cur
  let acc' := s.acc + sample ch.res r
  let cnt' := s.cnt + 1
  if cnt' = ch.ns then publish acc' s else { s with acc := acc', cnt := cnt' }

/-- ADC_DONE(r): no effect while no conversion is armed (R203). -/
def execAdcDone (r : Reading) (s : State) : Host.Outcome State Fault Refusal :=
  event (fun s => if s.running then takeReading r s else s) s

/-- The two payload bytes of a result, low byte first (R206). -/
def resultBytes (v : Reading) : List Byte := [v.extractLsb' 0 8, (v.extractLsb' 8 2).setWidth 8]

/-- ADC_GET: the id check comes before the ready check; success clears only `ready` (R206). -/
def execAdcGet (id : Byte) (s : State) : Host.Outcome State Fault Refusal :=
  command (fun s =>
    let ch := s.chanAt id.toNat
    if s.nchan ≤ id.toNat then raise .cfgErr s
    else if ch.ready then respond .ok (resultBytes ch.result) (s.setChan id.toNat { ch with ready := false })
    else respond .noData [] s) s

end Sys2Proof.Machine
end

