-- ==== Sys2Proof/Machine/Debounce.lean ====
section
/-! DEFINITION. The debounce family (spec/41_debounce.md): the TICK event and the five KEY commands
that read its state. -/

namespace Sys2Proof.Machine

/-- btn = NOT pins, the NUM_BTN low key bits: a pin level 0 is a held button (R171, R172). -/
def buttonBits (c : Config) (pins : KeyVec) : KeyVec := notWithin c.numBtn pins

/-- akey: the classifier over the last average of KEY_CHANNEL (R171, 43_keyclass.md R245). -/
def State.analogBits (s : State) : KeyVec := classify s.cfg (s.chanAt s.cfg.keyChannel).result

/-- raw = {akey, btn}: the conditioned sample of the whole key vector (R171, 43_keyclass.md R246). -/
def State.rawSample (s : State) (pins : KeyVec) : KeyVec :=
  (s.analogBits <<< s.cfg.numBtn) ||| buttonBits s.cfg pins

/-- The ring of N samples takes one more sample at its index, and the debounced state follows (R171). -/
def pushSample (raw : KeyVec) (s : State) : State :=
  let ring' := s.ring.set s.ridx raw
  let new := andAll ring'
  { s with
    ring := ring'
    ridx := (s.ridx + 1) % s.cfg.depth
    changed := changedBits s.stable new
    stable := new }

/-- TICK(pins) (R171). -/
def execTick (pins : KeyVec) (s : State) : Host.Outcome State Fault Refusal :=
  event (fun s => pushSample (s.rawSample pins) s) s

/-- One bit of a key vector, or CFG_ERR when there is no such key (R175, R176, R177). -/
def keyQuery (view : State → KeyVec) (key : Byte) (s : State) : State :=
  if key.toNat < s.cfg.kw then respond .ok [boolByte ((view s).testBit key.toNat)] s else raise .cfgErr s

/-- KEY_STATUS (R175). -/
def execKeyStatus (key : Byte) (s : State) : Host.Outcome State Fault Refusal :=
  command (keyQuery State.stable key) s

/-- KEY_PRESSED; reading does not clear the edge (R176). -/
def execKeyPressed (key : Byte) (s : State) : Host.Outcome State Fault Refusal :=
  command (keyQuery State.pressed key) s

/-- KEY_RELEASED; reading does not clear the edge (R177). -/
def execKeyReleased (key : Byte) (s : State) : Host.Outcome State Fault Refusal :=
  command (keyQuery State.released key) s

/-- KEY_STATE (R178). -/
def execKeyState (s : State) : Host.Outcome State Fault Refusal :=
  command (fun s => respond .ok (bytesLE s.cfg.kb s.stable) s) s

/-- KEY_PRESS; reading does not clear the edges (R179). -/
def execKeyPress (s : State) : Host.Outcome State Fault Refusal :=
  command (fun s => respond .ok (bytesLE s.cfg.kb s.pressed) s) s

end Sys2Proof.Machine
end

