-- ==== Sys2Proof/Machine/Display.lean ====
section
/-! DEFINITION. The display family (spec/40_display.md): glyph rendering and the meanings of NOP,
DISP_INIT, DISP_CLEAR, DISP_PUTC, DISP_PUTS, DISP_SYM, DISP_FLUSH, DISP_SETTPL and the unknown
opcodes. -/

namespace Sys2Proof.Machine

/-- The write of one segment of `render_char`: bit i of the mask at CHAR_MAP[pos][i] (R138). -/
def renderSegment (c : Config) (mask : BitVec 16) (pos : Nat) (m : DisplayMemory) (i : Nat) : DisplayMemory :=
  m.setBit (linearIndex (charAddr c pos i)) (mask.getLsbD i)

/-- render_char(chr, pos): the 14 segment bits of one position and nothing else (R138). -/
def renderChar (c : Config) (chr : Byte) (pos : Nat) (m : DisplayMemory) : DisplayMemory :=
  (List.range Param.segsPerPos).foldl (renderSegment c (fontMask c chr) pos) m

/-- The check of one character of DISP_PUTC and DISP_PUTS: position and code in range (R137, R139). -/
def charOk (q : Nat) (chr : Byte) : Bool := decide (q ≤ 7) && inFont chr

/-- The loop of DISP_PUTS from position q on: characters are rendered up to the first error; the flag
says that there was one (R139). Positions do not wrap around. -/
def renderString (c : Config) : Nat → List Byte → DisplayMemory → DisplayMemory × Bool
  | _, [], m => (m, false)
  | q, chr :: chrs, m =>
    if charOk q chr then renderString c (q + 1) chrs (renderChar c chr q m) else (m, true)

/-- NOP (R144). -/
def execNop (s : State) : Host.Outcome State Fault Refusal := command (respond .ok []) s

/-- An unknown opcode: a no-op that responds OK (R144, 30_encoding.md R96). -/
def execUnknown (_op : Byte) (s : State) : Host.Outcome State Fault Refusal := command (respond .ok []) s

/-- DISP_FLUSH (R134). -/
def execDispFlush (s : State) : Host.Outcome State Fault Refusal :=
  command (fun s => respond .ok [] (encodeAndSend s)) s

/-- DISP_INIT: init_left <- 4, then four frames (R135). -/
def execDispInit (s : State) : Host.Outcome State Fault Refusal :=
  command (fun s => respond .ok [] (emitFrames Param.initFrames { s with initLeft := 4 })) s

/-- DISP_CLEAR (R136). -/
def execDispClear (s : State) : Host.Outcome State Fault Refusal :=
  command (fun s => respond .ok [] (encodeAndSend { s with mem := DisplayMemory.zero })) s

/-- DISP_PUTC (R137). -/
def execDispPutc (pos chr : Byte) (s : State) : Host.Outcome State Fault Refusal :=
  command (fun s =>
    if charOk pos.toNat chr then
      respond .ok [] (encodeAndSend { s with mem := renderChar s.cfg chr pos.toNat s.mem })
    else raise .cfgErr s) s

/-- DISP_PUTS: what stands before the first error is committed, then one flush, then the status (R139). -/
def execDispPuts (pos : Byte) (chrs : List Byte) (s : State) : Host.Outcome State Fault Refusal :=
  command (fun s =>
    let drawn := renderString s.cfg pos.toNat chrs s.mem
    let flushed := encodeAndSend { s with mem := drawn.1 }
    if drawn.2 then raise .cfgErr flushed else respond .ok [] flushed) s

/-- DISP_SYM (R141). -/
def execDispSym (sym : Byte) (en : Bool) (s : State) : Host.Outcome State Fault Refusal :=
  command (fun s =>
    if sym.toNat < s.cfg.numIcons then
      respond .ok []
        (encodeAndSend { s with mem := s.mem.setBit (linearIndex (iconAddr s.cfg sym.toNat)) en })
    else raise .cfgErr s) s

/-- DISP_SETTPL: writes the template and sends nothing (R143). -/
def execDispSettpl (cu : Bool) (p : BitVec 4) (dr sc bu : Bool) (s : State) :
    Host.Outcome State Fault Refusal :=
  command (fun s => respond .ok [] { s with tpl := { cu := cu, p := p, dr := dr, sc := sc, bu := bu } }) s

end Sys2Proof.Machine
end

