-- ==== Sys2Proof/Machine/KeyClass.lean ====
section
/-! DEFINITION. The KeyClassifier's command (spec/43_keyclass.md R244); the function itself is
`classify` of Operands.lean (R240), and its way into the debouncer is `State.analogBits` (R245, R246). -/

namespace Sys2Proof.Machine

/-- KEY_CLASSIFY (R244). -/
def execKeyClassify (v : Reading) (s : State) : Host.Outcome State Fault Refusal :=
  command (fun s => respond .ok (bytesLE s.cfg.ab (classify s.cfg v)) s) s

end Sys2Proof.Machine
end

