-- ==== Sys2Proof/Machine/Reset.lean ====
section
/-! DEFINITION. The RESET event (spec/70_reset_and_hazards.md R300). -/

namespace Sys2Proof.Machine

/-- Table S to its reset values (R300). A command in progress is abandoned: the bytes received of one
that is not whole, and one that hangs. The configuration, the environment's draws and the responses
already given are not Table S and stay. -/
def resetState (s : State) : State :=
  { State.initial s.cfg with busDraws := s.busDraws, rsp := s.rsp, inputs := s.inputs }

/-- RESET sends nothing and gives no response (R300). -/
def execReset (s : State) : Host.Outcome State Fault Refusal := event resetState s

end Sys2Proof.Machine
end

