-- ==== Sys2Proof/Syntax.lean ====
section
/-! DEFINITION. The instructions of the block: one constructor for each row of spec/opcode_table.json,
the host commands of Table O (30_encoding.md R94), the unknown opcodes (R96) and the three events
(R95). Operands are the decoded fields of R93; bits the block ignores are not kept. -/

namespace Sys2Proof

/-- A host command or a hardware event (00_scope.md R16). -/
inductive Instr where
  /-- 0x00 NOP (40_display.md R144). -/
  | nop
  /-- 0x01 DISP_INIT (R135). -/
  | dispInit
  /-- 0x02 DISP_CLEAR (R136). -/
  | dispClear
  /-- 0x03 DISP_PUTC (R137). -/
  | dispPutc (pos chr : Byte)
  /-- 0x04 DISP_PUTS (R139); `len` is the length of the list. -/
  | dispPuts (pos : Byte) (chrs : List Byte)
  /-- 0x05 DISP_SYM (R141). -/
  | dispSym (sym : Byte) (en : Bool)
  /-- 0x06 DISP_FLUSH (R134). -/
  | dispFlush
  /-- 0x07 DISP_SETTPL (R143), `ctl` split as R93 says. -/
  | dispSettpl (cu : Bool) (p : BitVec 4) (dr sc bu : Bool)
  /-- 0x10 KEY_STATUS (41_debounce.md R175). -/
  | keyStatus (key : Byte)
  /-- 0x11 KEY_PRESSED (R176). -/
  | keyPressed (key : Byte)
  /-- 0x12 KEY_RELEASED (R177). -/
  | keyReleased (key : Byte)
  /-- 0x13 KEY_STATE (R178). -/
  | keyState
  /-- 0x14 KEY_PRESS (R179). -/
  | keyPress
  /-- 0x15 KEY_CLASSIFY (43_keyclass.md R244). -/
  | keyClassify (v : Reading)
  /-- 0x20 ADC_REG (42_adcmux.md R201), `cfg` split as R93 says. -/
  | adcReg (sel : Byte) (ref : BitVec 2) (res : Bool) (ns : Byte)
  /-- 0x21 ADC_GET (R206). -/
  | adcGet (id : Byte)
  /-- Any opcode byte outside Table O (30_encoding.md R96). -/
  | unknown (op : Byte)
  /-- The event TICK(pins) (41_debounce.md R171); `pins` is a NUM_BTN-bit number. -/
  | tick (pins : KeyVec)
  /-- The event ADC_DONE(r) (42_adcmux.md R203). -/
  | adcDone (r : Reading)
  /-- The event RESET (70_reset_and_hazards.md R300). -/
  | reset
deriving DecidableEq, Repr

/-- Commands arrive on the command stream; the other three are events on pins of their own (R95). -/
def Instr.isCommand : Instr → Bool
  | .nop | .dispInit | .dispClear | .dispPutc _ _ | .dispPuts _ _ | .dispSym _ _ | .dispFlush => true
  | .dispSettpl _ _ _ _ _ => true
  | .keyStatus _ | .keyPressed _ | .keyReleased _ | .keyState | .keyPress | .keyClassify _ => true
  | .adcReg _ _ _ _ | .adcGet _ | .unknown _ => true
  | .tick _ | .adcDone _ | .reset => false

end Sys2Proof
end

