-- ==== Sys2Proof/Machine/Dispatch.lean ====
section
/-! DEFINITION. The dispatch: one arm per constructor of Instr, each a call of its meaning. -/

namespace Sys2Proof.Machine

def exec (i : Instr) (s : State) : Host.Outcome State Fault Refusal :=
  match i with
  | .nop => Sys2Proof.Machine.execNop s
  | .dispInit => Sys2Proof.Machine.execDispInit s
  | .dispClear => Sys2Proof.Machine.execDispClear s
  | .dispPutc pos chr => Sys2Proof.Machine.execDispPutc pos chr s
  | .dispPuts pos chrs => Sys2Proof.Machine.execDispPuts pos chrs s
  | .dispSym sym en => Sys2Proof.Machine.execDispSym sym en s
  | .dispFlush => Sys2Proof.Machine.execDispFlush s
  | .dispSettpl cu p dr sc bu => Sys2Proof.Machine.execDispSettpl cu p dr sc bu s
  | .keyStatus key => Sys2Proof.Machine.execKeyStatus key s
  | .keyPressed key => Sys2Proof.Machine.execKeyPressed key s
  | .keyReleased key => Sys2Proof.Machine.execKeyReleased key s
  | .keyState => Sys2Proof.Machine.execKeyState s
  | .keyPress => Sys2Proof.Machine.execKeyPress s
  | .keyClassify v => Sys2Proof.Machine.execKeyClassify v s
  | .adcReg sel ref res ns => Sys2Proof.Machine.execAdcReg sel ref res ns s
  | .adcGet id => Sys2Proof.Machine.execAdcGet id s
  | .unknown op => Sys2Proof.Machine.execUnknown op s
  | .tick pins => Sys2Proof.Machine.execTick pins s
  | .adcDone r => Sys2Proof.Machine.execAdcDone r s
  | .reset => Sys2Proof.Machine.execReset s

end Sys2Proof.Machine
end

