-- ==== Sys2Proof/WellFormed.lean ====
section
/-! DEFINITION. When a configuration is well-formed (spec/00_scope.md R8) and when an instruction is
one that the encodings of 30_encoding.md can carry. -/

namespace Sys2Proof

/-- A SegmentAddress resolves to a bit of DisplayMemory: word_index in 0..2 (R8 (d), 30_encoding.md R111). -/
def SegmentAddress.wf (a : SegmentAddress) : Bool := decide (a.toNat < Param.memBits)

/-- No address stands twice in the list (R8 (e)). -/
def distinctAddrs : List SegmentAddress → Bool
  | [] => true
  | a :: as => !as.contains a && distinctAddrs as

/-- THRESH is strictly descending (R8 (f)). -/
def strictlyDescending : List ThresholdEntry → Bool
  | a :: b :: es => decide (b.thresh < a.thresh) && strictlyDescending (b :: es)
  | _ => true

/-- R8 (a), (b), (c): 52 divides SEGMENT_COUNT, 0 < SEGMENT_COUNT <= 192, NUM_CHUNKS <= 4. -/
def Config.wfChunks (c : Config) : Bool :=
  decide (c.segmentCount % Param.chunkBits = 0) &&
  decide (0 < c.segmentCount) &&
  decide (c.segmentCount ≤ Param.memBits) &&
  decide (c.numChunks ≤ 2 ^ Param.ddBits)

/-- R8 (d), (e), with the shape of the tables that R7 gives: 8 positions of 14 addresses, one font
mask per code FONT_FIRST..FONT_LAST. -/
def Config.wfSegments (c : Config) : Bool :=
  decide (c.charMap.length = Param.numPos) &&
  c.charMap.all (fun row => decide (row.length = Param.segsPerPos) && row.all SegmentAddress.wf && distinctAddrs row) &&
  c.iconMap.all SegmentAddress.wf &&
  decide (c.font.length = Param.fontLast - Param.fontFirst + 1)

/-- R8 (f), (g), with each KEYMASK entry a NUM_AKEY-bit mask (R113). -/
def Config.wfThresholds (c : Config) : Bool :=
  strictlyDescending c.thresholds &&
  decide (1 ≤ c.thresholds.length) &&
  c.thresholds.all (fun e => decide (e.mask < 2 ^ c.numAKey))

/-- A well-formed configuration (R8 (a) to (i)). -/
def Config.wf (c : Config) : Bool :=
  c.wfChunks && c.wfSegments && c.wfThresholds &&
  decide (c.keyChannel < Param.maxChannels) &&
  decide (1 ≤ c.depth)

/-- The opcode bytes outside Table O: 0x08..0x0F, 0x16..0x1F, 0x22..0xFF (30_encoding.md R96). -/
def unknownOpcode (op : Byte) : Bool :=
  (decide (0x08 ≤ op.toNat) && decide (op.toNat ≤ 0x0F)) ||
  (decide (0x16 ≤ op.toNat) && decide (op.toNat ≤ 0x1F)) ||
  decide (0x22 ≤ op.toNat)

/-- An instruction that the encodings can carry, for a configuration: a string has at most 255
characters (R92), an unknown opcode is one (R96), `pins` has NUM_BTN bits (41_debounce.md R170). An
operand out of its range is still a well-formed instruction: its own rule answers an error (R97). -/
def Instr.wf (c : Config) : Instr → Bool
  | .dispPuts _ chrs => decide (chrs.length ≤ 255)
  | .unknown op => unknownOpcode op
  | .tick pins => decide (pins < 2 ^ c.numBtn)
  | .nop | .dispInit | .dispClear | .dispPutc _ _ | .dispSym _ _ | .dispFlush => true
  | .dispSettpl _ _ _ _ _ => true
  | .keyStatus _ | .keyPressed _ | .keyReleased _ | .keyState | .keyPress | .keyClassify _ => true
  | .adcReg _ _ _ _ | .adcGet _ | .adcDone _ | .reset => true

end Sys2Proof
end

