-- ==== Sys2Proof/Decode.lean ====
section
/-! DEFINITION. The command stream (spec/30_encoding.md R90 to R97): decoding the command at the head
of a stream of bytes, and the encoder beside it. Decoding is total; it answers by name when the stream
ends before the command does (R92), and no other stream is refused. -/

namespace Sys2Proof

/-- Why no command stands at the head of the stream yet (R92). -/
inductive DecodeError where
  /-- The stream is empty: no opcode byte has arrived. -/
  | noOpcode
  /-- The stream ends in the middle of a command. -/
  | truncated
deriving DecidableEq, Repr

/-- What decoding answers: the command and the bytes after it. -/
abbrev Decoded := Except DecodeError (Instr × List Byte)

/-- Format OP0: no operand byte (R91, Table F). -/
def decodeOp0 (i : Instr) (t : List Byte) : Decoded := .ok (i, t)

/-- Format OP1: one operand byte. -/
def decodeOp1 (f : Byte → Instr) : List Byte → Decoded
  | a :: t => .ok (f a, t)
  | _ => .error .truncated

/-- Format OP2: two operand bytes. -/
def decodeOp2 (f : Byte → Byte → Instr) : List Byte → Decoded
  | a :: b :: t => .ok (f a b, t)
  | _ => .error .truncated

/-- Format OP3: three operand bytes. -/
def decodeOp3 (f : Byte → Byte → Byte → Instr) : List Byte → Decoded
  | a :: b :: c :: t => .ok (f a b c, t)
  | _ => .error .truncated

/-- Format OPS: pos, len, then len characters (R91, R92). -/
def decodeOps (f : Byte → List Byte → Instr) : List Byte → Decoded
  | pos :: len :: t =>
    if len.toNat ≤ t.length then .ok (f pos (t.take len.toNat), t.drop len.toNat) else .error .truncated
  | _ => .error .truncated

/-- `ctl` split into the five template fields (R93). -/
def settplOf (ctl : Byte) : Instr :=
  .dispSettpl (ctl.getLsbD 0) (ctl.extractLsb' 1 4) (ctl.getLsbD 5) (ctl.getLsbD 6) (ctl.getLsbD 7)

/-- `en` is bit 0 of its byte (R93). -/
def symOf (sym en : Byte) : Instr := .dispSym sym (en.getLsbD 0)

/-- v = {b[1:0], a} (R93). -/
def classifyOf (a b : Byte) : Instr := .keyClassify (((b.extractLsb' 0 2).setWidth 10 <<< 8) ||| a.setWidth 10)

/-- `cfg` split as ref = cfg[1:0], res = cfg[2] (R93). -/
def regOf (sel cfg ns : Byte) : Instr := .adcReg sel (cfg.extractLsb' 0 2) (cfg.getLsbD 2) ns

/-- The command at the head of the stream and the bytes after it (R90, Table O of R94, R96). -/
def decode : List Byte → Decoded
  | [] => .error .noOpcode
  | op :: t =>
    match op.toNat with
    | 0x00 => decodeOp0 .nop t
    | 0x01 => decodeOp0 .dispInit t
    | 0x02 => decodeOp0 .dispClear t
    | 0x03 => decodeOp2 .dispPutc t
    | 0x04 => decodeOps .dispPuts t
    | 0x05 => decodeOp2 symOf t
    | 0x06 => decodeOp0 .dispFlush t
    | 0x07 => decodeOp1 settplOf t
    | 0x10 => decodeOp1 .keyStatus t
    | 0x11 => decodeOp1 .keyPressed t
    | 0x12 => decodeOp1 .keyReleased t
    | 0x13 => decodeOp0 .keyState t
    | 0x14 => decodeOp0 .keyPress t
    | 0x15 => decodeOp2 classifyOf t
    | 0x20 => decodeOp3 regOf t
    | 0x21 => decodeOp1 .adcGet t
    | _ => decodeOp0 (.unknown op) t

/-- The operand byte of DISP_SETTPL (R93). -/
def ctlByte (cu : Bool) (p : BitVec 4) (dr sc bu : Bool) : Byte :=
  BitVec.ofBool bu ++ BitVec.ofBool sc ++ BitVec.ofBool dr ++ p ++ BitVec.ofBool cu

/-- The second operand byte of ADC_REG, ignored bits 0 (R93). -/
def cfgByte (ref : BitVec 2) (res : Bool) : Byte :=
  (0 : BitVec 5) ++ BitVec.ofBool res ++ ref

/-- The bytes of a command on the stream, ignored operand bits 0; an event has none (R91, R94, R95). -/
def encode : Instr → List Byte
  | .nop => [0x00]
  | .dispInit => [0x01]
  | .dispClear => [0x02]
  | .dispPutc pos chr => [0x03, pos, chr]
  | .dispPuts pos chrs => 0x04 :: pos :: BitVec.ofNat 8 chrs.length :: chrs
  | .dispSym sym en => [0x05, sym, if en then 1 else 0]
  | .dispFlush => [0x06]
  | .dispSettpl cu p dr sc bu => [0x07, ctlByte cu p dr sc bu]
  | .keyStatus key => [0x10, key]
  | .keyPressed key => [0x11, key]
  | .keyReleased key => [0x12, key]
  | .keyState => [0x13]
  | .keyPress => [0x14]
  | .keyClassify v => [0x15, v.extractLsb' 0 8, (v.extractLsb' 8 2).setWidth 8]
  | .adcReg sel ref res ns => [0x20, sel, cfgByte ref res, ns]
  | .adcGet id => [0x21, id]
  | .unknown op => [op]
  | .tick _ => []
  | .adcDone _ => []
  | .reset => []

/-- How many bytes a command takes (R91, R92); an event takes none (R95). -/
def commandLength : Instr → Nat
  | .nop | .dispInit | .dispClear | .dispFlush | .keyState | .keyPress | .unknown _ => 1
  | .dispSettpl _ _ _ _ _ | .keyStatus _ | .keyPressed _ | .keyReleased _ | .adcGet _ => 2
  | .dispPutc _ _ | .dispSym _ _ | .keyClassify _ => 3
  | .adcReg _ _ _ _ => 4
  | .dispPuts _ chrs => 3 + chrs.length
  | .tick _ | .adcDone _ | .reset => 0

/-- The bytes of the instruction word `w` of `nbits` bits, the first byte in its low bits, with zero
bytes after it: enough for any command that begins with them (at most 4, or 3 and as many characters
as the third byte says: R91, R92). A row of no bits (an event) has no bytes. -/
def tableBytes (nbits w : Nat) : List Byte :=
  let v := w % 2 ^ nbits
  if nbits = 0 then []
  else (List.range ((nbits + 7) / 8 + 4 + (v >>> 16) % 256)).map fun k => BitVec.ofNat 8 (v >>> (8 * k))

/-- The command the decoder reads from a word of spec/opcode_table.json. -/
def decodeTableWord (nbits w : Nat) : Option Instr :=
  match decode (tableBytes nbits w) with
  | .ok (i, _) => some i
  | .error _ => none

/-- The bytes of that command alone, without the zero bytes after it. -/
def tableCommand (nbits w : Nat) : List Byte :=
  match decode (tableBytes nbits w) with
  | .ok (i, _) => (tableBytes nbits w).take (commandLength i)
  | .error _ => []

end Sys2Proof
end

