-- ==== Sys2Proof/Machine/Fetch.lean ====
section
/-! DEFINITION. Which instruction the next step runs (spec/00_scope.md R16): the command whose last
byte has arrived, or the next event. The order of the arrivals is the order in which the host, the
timer, the converter and the reset input act (20_memory.md R74). -/

namespace Sys2Proof.Machine

/-- The event an arrival stands for; a byte is no event (30_encoding.md R95). -/
def Input.event? : Input → Option Instr
  | .byte _ => none
  | .tick pins => some (.tick pins)
  | .adcDone r => some (.adcDone r)
  | .reset => some .reset

/-- What a fetch finds: the instruction, the bytes still received and the arrivals still to come. -/
structure Fetched where
  instr : Instr
  rx : List Byte
  inputs : List Input
deriving DecidableEq, Repr

/-- The next instruction when commands are accepted. A command that is whole runs; else the next
arrival is looked at: a byte joins the command, an event runs (R90, R92). -/
def fetchFrom (rx : List Byte) (inputs : List Input) : Option Fetched :=
  match decode rx, inputs with
  | .ok (i, rest), inputs => some ⟨i, rest, inputs⟩
  | .error _, [] => none
  | .error _, .byte b :: t => fetchFrom (rx ++ [b]) t
  | .error _, .tick pins :: t => some ⟨.tick pins, rx, t⟩
  | .error _, .adcDone r :: t => some ⟨.adcDone r, rx, t⟩
  | .error _, .reset :: t => some ⟨.reset, rx, t⟩
termination_by structural inputs

/-- The next instruction of a hung block: the next event; bytes wait at the port (60_exceptions.md R266). -/
def fetchEvent : List Input → Option (Instr × List Input)
  | [] => none
  | .byte b :: t => (fetchEvent t).map fun (i, t') => (i, .byte b :: t')
  | .tick pins :: t => some (.tick pins, t)
  | .adcDone r :: t => some (.adcDone r, t)
  | .reset :: t => some (.reset, t)

/-- The next instruction with the state from which its arrival has been taken; none while the block
waits for an arrival. -/
def fetch (s : State) : Option (Instr × State) :=
  if s.hung then (fetchEvent s.inputs).map fun (i, t) => (i, { s with inputs := t })
  else (fetchFrom s.rx s.inputs).map fun f => (f.instr, { s with rx := f.rx, inputs := f.inputs })

end Sys2Proof.Machine
end

