-- ==== Sys2Proof/Machine/Step.lean ====
section
/-! DEFINITION. One step of the block (spec/00_scope.md R16), and how an instruction is placed where
the next step takes it. -/

namespace Sys2Proof.Machine

/-- A step: the next command or event runs whole. A block with nothing to run waits. A configuration
that is not well-formed has no run (R8). -/
def step (s : State) : Host.Outcome State Fault Refusal :=
  if s.cfg.wf then
    match fetch s with
    | some (i, s') => exec i s'
    | none => .next s
  else .refused .illFormedConfig

/-- The command of a table word, arrived whole: the next step of a block that accepts commands runs
exactly it. -/
def State.withFetchWord (s : State) (nbits w : Nat) : State :=
  { s with rx := tableCommand nbits w, hung := false }

end Sys2Proof.Machine
end

