-- ==== Sys2Proof/Safety.lean ====
section
/-! DEFINITION. The terms in which statements about the block are made: the invariants of the spec
(spec/10_state.md, 30_encoding.md R110), the frames a command drives in closed form
(40_display.md R132, R133), and runs of several instructions. -/

namespace Sys2Proof.Machine

/-! ### Runs -/

/-- Instructions one after another, each from the state the one before it left (20_memory.md R74). -/
def execAll : List Instr → State → Host.Outcome State Fault Refusal
  | [], s => .next s
  | i :: is, s =>
    match exec i s with
    | .next t => execAll is t
    | .fault r => .fault r
    | .refused r => .refused r

/-! ### Families of instructions -/

/-- The commands of 40_display.md. -/
def isDisplay : Instr → Bool
  | .nop | .dispInit | .dispClear | .dispPutc _ _ | .dispPuts _ _ | .dispSym _ _ | .dispFlush => true
  | .dispSettpl _ _ _ _ _ | .unknown _ => true
  | .keyStatus _ | .keyPressed _ | .keyReleased _ | .keyState | .keyPress | .keyClassify _ => false
  | .adcReg _ _ _ _ | .adcGet _ | .tick _ | .adcDone _ | .reset => false

/-- The events TICK and ADC_DONE (00_scope.md R18). -/
def isEvent : Instr → Bool
  | .tick _ | .adcDone _ => true
  | .nop | .dispInit | .dispClear | .dispPutc _ _ | .dispPuts _ _ | .dispSym _ _ | .dispFlush => false
  | .dispSettpl _ _ _ _ _ | .unknown _ => false
  | .keyStatus _ | .keyPressed _ | .keyReleased _ | .keyState | .keyPress | .keyClassify _ => false
  | .adcReg _ _ _ _ | .adcGet _ | .reset => false

/-! ### Frames in closed form -/

/-- The dr bit of the k-th frame sent from a state, counting from 0: forced while init_left counts
down (40_display.md R132). -/
def drOfFrame (s : State) (k : Nat) : Bool := s.tpl.dr || decide (k < s.initLeft.toNat)

/-- The frame words of `n` frames dd = 0, 1, … sent from a state (R132, R133). -/
def framesOf (n : Nat) (s : State) : List FrameWord :=
  (List.range n).map fun k => packFrame (chunk s.cfg s.mem k) s.tpl (drOfFrame s k) k

/-- The trace of a list of frames, one transaction each (30_encoding.md R108). -/
def traceOf (c : Config) (Fs : List FrameWord) : List BusEvent := Fs.flatMap (frameEvents c)

/-- init_left after `n` frames (R132). -/
def initLeftAfter (n : Nat) (s : State) : BitVec 3 := BitVec.ofNat 3 (s.initLeft.toNat - n)

/-- The state after `n` frames that do not hang. -/
def sentFrames (n : Nat) (s : State) : State :=
  { s with bus := s.bus ++ traceOf s.cfg (framesOf n s), initLeft := initLeftAfter n s }

/-- The state with one more response. -/
def answered (st : Status) (payload : List Byte) (s : State) : State :=
  { s with rsp := s.rsp ++ [⟨st, payload⟩] }

/-- Of `n` bus events about to be driven, how many are: up to and including the first after which the
bus stops acknowledging (60_exceptions.md R266). -/
def drivenOf : List Bool → Nat → Nat
  | _, 0 => 0
  | [], n + 1 => n + 1
  | true :: _, _ + 1 => 1
  | false :: ds, n + 1 => drivenOf ds n + 1

/-- The bus stops within the next `n` events. -/
def stopsWithin (ds : List Bool) (n : Nat) : Bool := (ds.take n).any id

/-- Every transaction is eleven events (30_encoding.md R108). -/
def eventsPerFrame : Nat := 11

/-- The state after `n` frames when the bus may hang, each event deciding by its draw (R266): the
trace ends with the event after which the bus stopped, and init_left counts the whole frames before. -/
def sentFramesMayHang (n : Nat) (s : State) : State :=
  let total := eventsPerFrame * n
  let driven := drivenOf s.busDraws total
  let stops := stopsWithin s.busDraws total
  { s with
    bus := s.bus ++ (traceOf s.cfg (framesOf n s)).take driven
    initLeft := initLeftAfter (if stops then (driven - 1) / eventsPerFrame else n) s
    hung := stops
    busDraws := s.busDraws.drop driven }

/-- What a command that triggers the FrameEncoder does with it: how many frames, from which state, and
the status it then answers (40_display.md R134 to R141); none for a form that sends nothing. -/
def flushOf (i : Instr) (s : State) : Option (Nat × State × Status) :=
  match i with
  | .dispFlush => some (s.cfg.numChunks, s, .ok)
  | .dispInit => some (4, { s with initLeft := 4 }, .ok)
  | .dispClear => some (s.cfg.numChunks, { s with mem := ⟨0, 0, 0⟩ }, .ok)
  | .dispPutc pos chr =>
    if pos.toNat ≤ 7 ∧ inFont chr = true then
      some (s.cfg.numChunks, { s with mem := renderChar s.cfg chr pos.toNat s.mem }, .ok)
    else none
  | .dispPuts pos chrs =>
    some (s.cfg.numChunks, { s with mem := (renderString s.cfg pos.toNat chrs s.mem).1 },
      if (renderString s.cfg pos.toNat chrs s.mem).2 then .cfgErr else .ok)
  | .dispSym sym en =>
    if sym.toNat < s.cfg.numIcons then
      some (s.cfg.numChunks, { s with mem := s.mem.setBit (linearIndex (iconAddr s.cfg sym.toNat)) en }, .ok)
    else none
  | .nop | .dispSettpl _ _ _ _ _ | .unknown _ => none
  | .keyStatus _ | .keyPressed _ | .keyReleased _ | .keyState | .keyPress | .keyClassify _ => none
  | .adcReg _ _ _ _ | .adcGet _ | .tick _ | .adcDone _ | .reset => none

/-- The data field of a frame word, F[51:0] (30_encoding.md R105). -/
def frameData (F : FrameWord) : BitVec 52 := F.extractLsb' 0 52

/-- The chunk index of a frame word, F[63:62] (R105). -/
def frameDd (F : FrameWord) : BitVec 2 := F.extractLsb' 62 2

/-- The last NUM_CHUNKS transactions of the trace carry, in order, the chunks of W (40_display.md R145). -/
def BusShowsMemory (s : State) : Prop :=
  ∃ (before : List BusEvent) (Fs : List FrameWord),
    s.bus = before ++ traceOf s.cfg Fs ∧
    Fs.map frameData = (List.range s.cfg.numChunks).map (chunk s.cfg s.mem) ∧
    Fs.map (fun F => (frameDd F).toNat) = List.range s.cfg.numChunks

/-! ### Publishing -/

/-- The channel for which the next ADC_DONE publishes a result; none where it only accumulates or where
no conversion is armed (42_adcmux.md R203). -/
def publishTarget (s : State) : Option Nat :=
  if s.running = true ∧ s.cnt + 1 = (s.chanAt s.cur).ns then some s.cur else none

/-! ### Payloads -/

/-- Bytes of a payload when the status is OK (30_encoding.md R98, Table R). -/
def okPayloadLength (c : Config) : Instr → Nat
  | .keyStatus _ | .keyPressed _ | .keyReleased _ => 1
  | .keyState | .keyPress => c.kb
  | .keyClassify _ => c.ab
  | .adcReg _ _ _ _ => 1
  | .adcGet _ => 2
  | .nop | .dispInit | .dispClear | .dispPutc _ _ | .dispPuts _ _ | .dispSym _ _ | .dispFlush => 0
  | .dispSettpl _ _ _ _ _ | .unknown _ | .tick _ | .adcDone _ | .reset => 0

/-- The number a little-endian payload stands for (20_memory.md R66). -/
def payloadNumber (p : List Byte) : Nat := Nat.ofDigits 256 (p.map BitVec.toNat)

/-! ### Invariants -/

/-- The largest sample of a channel: 1023 in 10-bit mode, 255 in 8-bit mode (42_adcmux.md R203). -/
def maxSample (res : Bool) : Nat := if res then 1023 else 255

/-- The sample of a reading as a number (R203). -/
def sampleNat (res : Bool) (r : Reading) : Nat := if res then r.toNat else r.toNat % 256

/-- The display group: init_left is 0..4 (10_state.md R25), and the trace is whole transactions; a
hung block has one more, cut after some event (30_encoding.md R110, 60_exceptions.md R266). -/
structure DisplayInv (s : State) : Prop where
  initLeft_le : s.initLeft.toNat ≤ 4
  trace_whole : s.hung = false → ∃ Fs : List FrameWord, s.bus = traceOf s.cfg Fs
  trace_cut : s.hung = true → ∃ (Fs : List FrameWord) (F : FrameWord) (k : Nat),
    1 ≤ k ∧ k ≤ eventsPerFrame ∧ s.bus = traceOf s.cfg Fs ++ (frameEvents s.cfg F).take k
  hung_only : s.hung = true → s.cfg.busMayHang = true

/-- The debounce group: the ring has N entries of KW bits, its index is inside, the debounced state is
the AND of the ring and every vector has KW bits (10_state.md R32 to R35, 41_debounce.md R171). -/
structure DebounceInv (s : State) : Prop where
  ring_length : s.ring.length = s.cfg.depth
  ridx_lt : s.ridx < s.cfg.depth
  ring_width : ∀ v ∈ s.ring, v < 2 ^ s.cfg.kw
  stable_eq : s.stable = andAll s.ring
  changed_width : s.changed < 2 ^ s.cfg.kw

/-- The analog group (10_state.md R37 to R41, 42_adcmux.md R207, R208). -/
structure MuxInv (s : State) : Prop where
  chan_length : s.chan.length = 10
  nchan_le : s.nchan ≤ 10
  running_iff : s.running = decide (1 ≤ s.nchan)
  cur_lt : s.running = true → s.cur < s.nchan
  cnt_lt : s.running = true → s.cnt.toNat < (s.chanAt s.cur).ns.toNat
  acc_le : s.running = true → s.acc.toNat ≤ s.cnt.toNat * maxSample (s.chanAt s.cur).res
  idle_zero : s.running = false → s.cur = 0 ∧ s.acc = 0 ∧ s.cnt = 0
  registered : ∀ i, i < s.nchan →
    (s.chanAt i).ns ≠ 0 ∧ (s.chanAt i).result.toNat ≤ maxSample (s.chanAt i).res
  unused : ∀ i, s.nchan ≤ i → s.chanAt i = Channel.zero

/-- A state a run can be in: a well-formed configuration and the three groups. -/
structure Inv (s : State) : Prop where
  cfg_wf : s.cfg.wf = true
  display : DisplayInv s
  debounce : DebounceInv s
  mux : MuxInv s

end Sys2Proof.Machine
end

