-- ==== Sys2Proof/Certificates/Slice0/Obligations.lean ====
section
/-! DEFINITION. The statements about the block for the provers: each docstring names the rule of
spec/ it formalises, or the log entry of notes/assumptions that it rests on. A statement about a
command assumes `hung = false`: a hung block accepts no command (60_exceptions.md R266), which
`HungBlockServesOnlyEvents` and `HungBlockAcceptsNoCommand` state. -/

open Sys2Proof Sys2Proof.Machine

/-! ### The command stream -/

/-- 30_encoding.md R91 to R94, R96: the encoder and the decoder agree on every command, with every
operand at every value and any bytes after it. -/
def Obligations.DecodeOfEncodeIsTheCommand : Prop :=
  ∀ (c : Config) (i : Instr) (rest : List Byte), i.isCommand = true → i.wf c = true →
    decode (encode i ++ rest) = .ok (i, rest)

/-- R91, R92, R97: whatever the decoder answers is a well-formed command that took exactly its own
bytes from the head of the stream. -/
def Obligations.DecodedCommandTakesItsOwnBytes : Prop :=
  ∀ (c : Config) (bytes : List Byte) (i : Instr) (rest : List Byte), decode bytes = .ok (i, rest) →
    i.isCommand = true ∧ i.wf c = true ∧
    commandLength i ≤ bytes.length ∧ rest = bytes.drop (commandLength i)

/-- R93: how the operand bytes of each command become its operands. -/
def Obligations.OperandBytesAreAssembled : Prop :=
  ∀ (a b c : Byte) (rest : List Byte),
    decode (0x03 :: a :: b :: rest) = .ok (.dispPutc a b, rest) ∧
    (∀ chrs : List Byte, chrs.length = b.toNat →
      decode (0x04 :: a :: b :: (chrs ++ rest)) = .ok (.dispPuts a chrs, rest)) ∧
    decode (0x05 :: a :: b :: rest) = .ok (.dispSym a (b.toNat.testBit 0), rest) ∧
    decode (0x07 :: a :: rest) =
      .ok (.dispSettpl (a.toNat.testBit 0) (BitVec.ofNat 4 (a.toNat / 2)) (a.toNat.testBit 5)
        (a.toNat.testBit 6) (a.toNat.testBit 7), rest) ∧
    decode (0x10 :: a :: rest) = .ok (.keyStatus a, rest) ∧
    decode (0x11 :: a :: rest) = .ok (.keyPressed a, rest) ∧
    decode (0x12 :: a :: rest) = .ok (.keyReleased a, rest) ∧
    decode (0x15 :: a :: b :: rest) =
      .ok (.keyClassify (BitVec.ofNat 10 (b.toNat % 4 * 256 + a.toNat)), rest) ∧
    decode (0x20 :: a :: b :: c :: rest) =
      .ok (.adcReg a (BitVec.ofNat 2 (b.toNat % 4)) (b.toNat.testBit 2) c, rest) ∧
    decode (0x21 :: a :: rest) = .ok (.adcGet a, rest)

/-- R92: the length of a command follows from its opcode (and the third byte of DISP_PUTS); a stream
that ends in the middle of one holds no command, and the block waits (its bytes stand in `rx`, log 3 and
4; a step that waits answers the same state, log 2). -/
def Obligations.TruncatedCommandTakesNoStep : Prop :=
  ∀ (s : State) (i : Instr) (n : Nat), s.cfg.wf = true → s.hung = false → i.isCommand = true →
    i.wf s.cfg = true → s.inputs = [] → n < (encode i).length → s.rx = (encode i).take n →
    (encode i).length = commandLength i ∧ (∃ e, decode s.rx = .error e) ∧ step s = .next s

/-- R96: an opcode byte outside Table O is one byte long, changes nothing, sends nothing and responds
OK, and the byte after it is the next opcode; and only such a byte is unknown. -/
def Obligations.UnknownOpcodeIsOneByteNoOp : Prop :=
  (∀ (op : Byte) (rest : List Byte),
    (0x08 ≤ op.toNat ∧ op.toNat ≤ 0x0F ∨ 0x16 ≤ op.toNat ∧ op.toNat ≤ 0x1F ∨ 0x22 ≤ op.toNat) →
    decode (op :: rest) = .ok (.unknown op, rest)) ∧
  (∀ (bytes : List Byte) (op : Byte) (rest : List Byte), decode bytes = .ok (.unknown op, rest) →
    bytes = op :: rest ∧
    (0x08 ≤ op.toNat ∧ op.toNat ≤ 0x0F ∨ 0x16 ≤ op.toNat ∧ op.toNat ≤ 0x1F ∨ 0x22 ≤ op.toNat)) ∧
  (∀ (op : Byte) (s : State), s.hung = false →
    exec (.unknown op) s = .next { s with rsp := s.rsp ++ [⟨.ok, []⟩] })

/-- Words written out from 30_encoding.md Table O and Table F decode to the commands they stand for. -/
def Obligations.WrittenWordsDecode : Prop :=
  decodeTableWord 8 0x00 = some .nop ∧
  decodeTableWord 24 0x410003 = some (.dispPutc 0x00 0x41) ∧
  decodeTableWord 40 0x3141020004 = some (.dispPuts 0x00 [0x41, 0x31]) ∧
  decodeTableWord 16 0x0A10 = some (.keyStatus 0x0A) ∧
  decodeTableWord 24 0x00C815 = some (.keyClassify 200) ∧
  decodeTableWord 32 0x01FB0920 = some (.adcReg 9 3 false 1) ∧
  decodeTableWord 8 0xEE = some (.unknown 0xEE)

/-! ### Steps -/

/-- 00_scope.md R16, 30_encoding.md R90: when the bytes received make a command, the step is that
command, from the state in which its bytes are taken. The model's choice: the received bytes stand in `rx`
(log 3), and a whole command steps before any arrival still waiting in `inputs` (log 4). -/
def Obligations.StepRunsTheDecodedCommand : Prop :=
  ∀ (s : State) (i : Instr) (rest : List Byte), s.cfg.wf = true → s.hung = false →
    decode s.rx = .ok (i, rest) → step s = exec i { s with rx := rest }

/-- 30_encoding.md R90, 00_scope.md R16, 20_memory.md R70: the bytes of a command, arriving one after
another, are one step: the command. The model's choice: arrivals are taken in the order of `inputs`
(log 2), and the command steps before the arrivals after its last byte (log 4). -/
def Obligations.ArrivingBytesAreOneStep : Prop :=
  ∀ (s : State) (i : Instr) (more : List Input), s.cfg.wf = true → s.hung = false →
    i.isCommand = true → i.wf s.cfg = true → s.rx = [] →
    s.inputs = (encode i).map Input.byte ++ more →
    step s = exec i { s with inputs := more }

/-- 60_exceptions.md R270, 30_encoding.md R92: an event is served also between the bytes of a command,
whose received bytes stay. The model's choice: arrivals are taken in the order of `inputs` (log 2), and
the received bytes wait in `rx` (log 4). -/
def Obligations.EventIsServedBetweenCommandBytes : Prop :=
  ∀ (s : State) (i ev : Instr) (n : Nat) (x : Input) (more : List Input), s.cfg.wf = true →
    s.hung = false → i.isCommand = true → i.wf s.cfg = true → n < (encode i).length → s.rx = [] →
    x.event? = some ev → s.inputs = ((encode i).take n).map Input.byte ++ x :: more →
    step s = exec ev { s with rx := (encode i).take n, inputs := more }

/-- 60_exceptions.md R266: a hung block serves the next event and leaves the bytes at the port (log 9);
with no event at hand the step waits and answers the same state (log 2). -/
def Obligations.HungBlockServesOnlyEvents : Prop :=
  ∀ (s : State) (bs : List Byte), s.cfg.wf = true → s.hung = true →
    (s.inputs = bs.map Input.byte → step s = .next s) ∧
    (∀ (x : Input) (ev : Instr) (more : List Input), x.event? = some ev →
      s.inputs = bs.map Input.byte ++ x :: more →
      step s = exec ev { s with inputs := bs.map Input.byte ++ more })

/-- 60_exceptions.md R266: a hung block accepts no command, and its events leave the display group and
the responses alone; RESET alone ends the hang (log 8). -/
def Obligations.HungBlockAcceptsNoCommand : Prop :=
  ∀ (s : State) (i : Instr), s.hung = true →
    (i.isCommand = true → exec i s = .next s) ∧
    (isEvent i = true → ∃ t, exec i s = .next t ∧ t.hung = true ∧ t.mem = s.mem ∧ t.tpl = s.tpl ∧
      t.initLeft = s.initLeft ∧ t.bus = s.bus ∧ t.rsp = s.rsp) ∧
    (∃ t, exec .reset s = .next t ∧ t.hung = false)

/-- 00_scope.md R8, 60_exceptions.md R264: a step is refused exactly when the configuration is not
well-formed, and a well-formed one meets (a) to (i) of R8. -/
def Obligations.IllFormedConfigurationIsRefused : Prop :=
  (∀ s : State, s.cfg.wf = false ↔ step s = .refused .illFormedConfig) ∧
  (∀ c : Config, c.wf = true →
    c.segmentCount % 52 = 0 ∧ 0 < c.segmentCount ∧ c.segmentCount ≤ 192 ∧ c.numChunks ≤ 4 ∧
    (∀ row ∈ c.charMap, ∀ a ∈ row, (wordIndex a).toNat ≤ 2 ∧ (bitIndex a).toNat ≤ 63) ∧
    (∀ a ∈ c.iconMap, (wordIndex a).toNat ≤ 2 ∧ (bitIndex a).toNat ≤ 63) ∧
    (∀ p i j, p < 8 → i < 14 → j < 14 → charAddr c p i = charAddr c p j → i = j) ∧
    (∀ j e f, c.thresholds[j]? = some e → c.thresholds[j + 1]? = some f → f.thresh < e.thresh) ∧
    1 ≤ c.thresholds.length ∧ c.keyChannel < 10 ∧ 1 ≤ c.depth)

/-- 00_scope.md R9: of the values of SEGMENT_COUNT, exactly 52, 104 and 156 are admitted. -/
def Obligations.SegmentCountIsOneOfThree : Prop :=
  ∀ (c : Config) (n : Nat), c.wf = true →
    ({ c with segmentCount := n }.wf = true ↔ n = 52 ∨ n = 104 ∨ n = 156)

/-! ### DisplayMemory, chunks, frames and the wire -/

/-- 30_encoding.md R111: a stored SegmentAddress is its linear index; one from 192 on, which has
word_index 3, makes the configuration ill-formed. -/
def Obligations.SegmentAddressIsItsLinearIndex : Prop :=
  ∀ a : SegmentAddress, linearIndex a = a.toNat ∧
    linearIndex a = 64 * (wordIndex a).toNat + (bitIndex a).toNat ∧
    a = wordIndex a ++ bitIndex a ∧
    (a.toNat ≤ 191 ↔ (wordIndex a).toNat ≤ 2) ∧
    (192 ≤ a.toNat → ∀ c : Config, (a ∈ c.iconMap ∨ ∃ row ∈ c.charMap, a ∈ row) → c.wf = false)

/-- 00_scope.md R12: MemRead gives bits L..L+n-1, MemWrite changes those bits and no other, a command's
write is MemWrite of one bit, and no command forms an address outside 0..191. -/
def Obligations.MemoryReadsAndWritesBits : Prop :=
  (∀ (m : DisplayMemory) (L n : Nat) (v : BitVec n), L + n ≤ 192 →
    (∀ j, j < n → (m.read L n).getLsbD j = m.bit (L + j)) ∧
    (∀ j, j < n → (m.write L n v).bit (L + j) = v.getLsbD j) ∧
    (∀ K, K < L ∨ L + n ≤ K → (m.write L n v).bit K = m.bit K)) ∧
  (∀ (m : DisplayMemory) (L : Nat) (b : Bool), m.setBit L b = m.write L 1 (BitVec.ofBool b)) ∧
  (∀ c : Config, c.wf = true →
    (∀ pos i, pos ≤ 7 → i < 14 → linearIndex (charAddr c pos i) < 192) ∧
    (∀ sym, sym < c.numIcons → linearIndex (iconAddr c sym) < 192))

/-- 20_memory.md R62: chunk i is bits 52i..52i+51 across the words, and zero from NUM_CHUNKS on; bits
from SEGMENT_COUNT on are in no chunk. -/
def Obligations.ChunkIsFiftyTwoConsecutiveBits : Prop :=
  ∀ (c : Config) (m : DisplayMemory) (i : Nat), c.wf = true →
    (∀ k, k < 52 → (chunk c m i).getLsbD k = (decide (i < c.numChunks) && m.bit (52 * i + k))) ∧
    (c.numChunks ≤ i → chunk c m i = 0) ∧
    (∀ L k, c.segmentCount ≤ L → i < c.numChunks → k < 52 → 52 * i + k ≠ L) ∧
    (c.segmentCount = 156 →
      chunk c m 0 = m.w0.extractLsb' 0 52 ∧
      chunk c m 1 = m.w1.extractLsb' 0 40 ++ m.w0.extractLsb' 52 12 ∧
      chunk c m 2 = m.w2.extractLsb' 0 28 ++ m.w1.extractLsb' 40 24)

/-- 30_encoding.md R106: the eight bytes of a frame, from data and control fields. -/
def Obligations.FrameBytesArePacked : Prop :=
  ∀ (data : BitVec 52) (t : Template) (dr : Bool) (i : Nat), i < 4 →
    (packFrame data t dr i).toNat =
      data.toNat + 2 ^ 54 * t.cu.toNat + 2 ^ 55 * t.p.toNat + 2 ^ 59 * dr.toNat
        + 2 ^ 60 * t.sc.toNat + 2 ^ 61 * t.bu.toNat + 2 ^ 62 * i ∧
    (frameBytes (packFrame data t dr i)).map BitVec.toNat =
      [data.toNat % 256, data.toNat / 2 ^ 8 % 256, data.toNat / 2 ^ 16 % 256, data.toNat / 2 ^ 24 % 256,
       data.toNat / 2 ^ 32 % 256, data.toNat / 2 ^ 40 % 256,
       data.toNat / 2 ^ 48 + 64 * t.cu.toNat + 128 * (t.p.toNat % 2),
       t.p.toNat / 2 + 8 * dr.toNat + 16 * t.sc.toNat + 32 * t.bu.toNat + 64 * i]

/-- 30_encoding.md R108, 20_memory.md R65: a transaction is CS_LOW, the address byte, eight frame bytes
and CS_HIGH; on the data line the 8 address bits and then F[0], …, F[63]. -/
def Obligations.TransactionOnTheWire : Prop :=
  ∀ (c : Config) (F : FrameWord),
    (frameEvents c F).head? = some .csLow ∧ (frameEvents c F).getLast? = some .csHigh ∧
    (frameEvents c F).length = 11 ∧
    (∀ j, j < 8 → (frameEvents c F)[j + 2]? = some (.byte (F.extractLsb' (8 * j) 8))) ∧
    (frameEvents c F)[1]? = some (.byte c.devAddr) ∧
    serialBits (frameEvents c F) =
      (List.range 8).map c.devAddr.getLsbD ++ (List.range 64).map F.getLsbD

/-- 40_display.md R142: where a DisplayMemory bit is sent, and that a bit from SEGMENT_COUNT on is in no
frame. -/
def Obligations.BitIsSentAtItsPlace : Prop :=
  ∀ (s : State) (n L : Nat) (v : Bool), s.cfg.wf = true → n = s.cfg.numChunks → L < 192 →
    (L < s.cfg.segmentCount →
      ∃ F b, (framesOf n s)[L / 52]? = some F ∧ (frameBytes F)[(L % 52) / 8]? = some b ∧
        b.getLsbD ((L % 52) % 8) = s.mem.bit L ∧ (frameDd F).toNat = L / 52) ∧
    (s.cfg.segmentCount ≤ L → framesOf n { s with mem := s.mem.setBit L v } = framesOf n s)

/-! ### Display commands -/

/-- 40_display.md R144: NOP (opcode 0x00) responds OK and does nothing else; so does any opcode outside
Table O. -/
def Obligations.NopOnlyResponds : Prop :=
  ∀ (s : State) (op : Byte) (rest : List Byte), s.hung = false →
    decode (0x00 :: rest) = .ok (.nop, rest) ∧
    (unknownOpcode op = true → decode (op :: rest) = .ok (.unknown op, rest)) ∧
    exec .nop s = .next { s with rsp := s.rsp ++ [⟨.ok, []⟩] } ∧
    exec (.unknown op) s = .next { s with rsp := s.rsp ++ [⟨.ok, []⟩] }

/-- 40_display.md R132 to R134: DISP_FLUSH (opcode 0x06) sends the frames dd = 0, 1, … of the whole
transmitted memory, counts init_left down, and changes nothing else. -/
def Obligations.FlushSendsEveryChunk : Prop :=
  ∀ (s : State) (rest : List Byte), s.hung = false → s.cfg.busMayHang = false →
    decode (0x06 :: rest) = .ok (.dispFlush, rest) ∧
    exec .dispFlush s = .next { s with
      bus := s.bus ++ traceOf s.cfg ((List.range s.cfg.numChunks).map fun k =>
        packFrame (chunk s.cfg s.mem k) s.tpl (s.tpl.dr || decide (k < s.initLeft.toNat)) k)
      initLeft := BitVec.ofNat 3 (s.initLeft.toNat - s.cfg.numChunks)
      rsp := s.rsp ++ [⟨.ok, []⟩] }

/-- 40_display.md R135: DISP_INIT (opcode 0x01) sends four frames dd = 0..3, every one with dr = 1, the
fourth with no data, and leaves init_left = 0. -/
def Obligations.InitSendsFourResetFrames : Prop :=
  ∀ (s : State) (rest : List Byte), s.hung = false → s.cfg.busMayHang = false →
    decode (0x01 :: rest) = .ok (.dispInit, rest) ∧
    (s.cfg.wf = true → chunk s.cfg s.mem 3 = 0) ∧
    exec .dispInit s = .next { s with
      bus := s.bus ++ traceOf s.cfg
        [packFrame (chunk s.cfg s.mem 0) s.tpl true 0, packFrame (chunk s.cfg s.mem 1) s.tpl true 1,
         packFrame (chunk s.cfg s.mem 2) s.tpl true 2, packFrame (chunk s.cfg s.mem 3) s.tpl true 3]
      initLeft := 0
      rsp := s.rsp ++ [⟨.ok, []⟩] }

/-- 40_display.md R136: DISP_CLEAR (opcode 0x02) sets every bit of DisplayMemory to 0 and flushes. -/
def Obligations.ClearZeroesAndFlushes : Prop :=
  ∀ (s : State) (rest : List Byte), s.hung = false → s.cfg.busMayHang = false → ∃ m : DisplayMemory,
    decode (0x02 :: rest) = .ok (.dispClear, rest) ∧
    (∀ L, m.bit L = false) ∧
    exec .dispClear s = .next { s with
      mem := m
      bus := s.bus ++ traceOf s.cfg (framesOf s.cfg.numChunks { s with mem := m })
      initLeft := initLeftAfter s.cfg.numChunks s
      rsp := s.rsp ++ [⟨.ok, []⟩] }

/-- 40_display.md R137, R138: DISP_PUTC (opcode 0x03) writes the 14 segment bits of its position from the
font mask, leaves every other bit, and flushes; out of range it answers CFG_ERR and does nothing else. -/
def Obligations.PutcWritesOneGlyph : Prop :=
  ∀ (s : State) (pos chr : Byte) (rest : List Byte), s.cfg.wf = true → s.hung = false →
    decode (0x03 :: pos :: chr :: rest) = .ok (.dispPutc pos chr, rest) ∧
    (pos.toNat ≤ 7 → 0x20 ≤ chr.toNat → chr.toNat ≤ 0x7E → s.cfg.busMayHang = false →
      ∃ m : DisplayMemory,
        (∀ i, i < 14 → m.bit (linearIndex (charAddr s.cfg pos.toNat i)) = (fontMask s.cfg chr).getLsbD i) ∧
        (∀ L, (∀ i, i < 14 → L ≠ linearIndex (charAddr s.cfg pos.toNat i)) → m.bit L = s.mem.bit L) ∧
        exec (.dispPutc pos chr) s = .next { s with
          mem := m
          bus := s.bus ++ traceOf s.cfg (framesOf s.cfg.numChunks { s with mem := m })
          initLeft := initLeftAfter s.cfg.numChunks s
          rsp := s.rsp ++ [⟨.ok, []⟩] }) ∧
    (7 < pos.toNat ∨ chr.toNat < 0x20 ∨ 0x7E < chr.toNat →
      exec (.dispPutc pos chr) s = .next { s with rsp := s.rsp ++ [⟨.cfgErr, []⟩] })

/-- 40_display.md R139, R140: DISP_PUTS (opcode 0x04) renders the `k` characters before the first error,
left to right, flushes once, and answers CFG_ERR when there was an error. -/
def Obligations.PutsCommitsUpToTheFirstError : Prop :=
  ∀ (s : State) (pos : Byte) (chrs rest : List Byte) (k : Nat), s.hung = false →
    s.cfg.busMayHang = false → k ≤ chrs.length →
    (∀ j x, j < k → chrs[j]? = some x → pos.toNat + j ≤ 7 ∧ 0x20 ≤ x.toNat ∧ x.toNat ≤ 0x7E) →
    (∀ x, chrs[k]? = some x → 7 < pos.toNat + k ∨ x.toNat < 0x20 ∨ 0x7E < x.toNat) →
    (∀ len : Byte, len.toNat = chrs.length →
      decode (0x04 :: pos :: len :: (chrs ++ rest)) = .ok (.dispPuts pos chrs, rest)) ∧
    ∃ m : DisplayMemory,
      m = ((chrs.take k).zipIdx pos.toNat).foldl (fun m xq => renderChar s.cfg xq.1 xq.2 m) s.mem ∧
      exec (.dispPuts pos chrs) s = .next { s with
        mem := m
        bus := s.bus ++ traceOf s.cfg (framesOf s.cfg.numChunks { s with mem := m })
        initLeft := initLeftAfter s.cfg.numChunks s
        rsp := s.rsp ++ [⟨if k = chrs.length then .ok else .cfgErr, []⟩] }

/-- 40_display.md R141: DISP_SYM (opcode 0x05) writes the one bit of its icon and flushes; with no such
icon it answers CFG_ERR and does nothing else. -/
def Obligations.SymWritesOneBit : Prop :=
  ∀ (s : State) (sym b : Byte) (rest : List Byte) (en : Bool), s.cfg.wf = true → s.hung = false →
    decode (0x05 :: sym :: b :: rest) = .ok (.dispSym sym (b.getLsbD 0), rest) ∧
    (sym.toNat < s.cfg.numIcons → s.cfg.busMayHang = false →
      ∃ m : DisplayMemory,
        m.bit (linearIndex (iconAddr s.cfg sym.toNat)) = en ∧
        (∀ L, L ≠ linearIndex (iconAddr s.cfg sym.toNat) → m.bit L = s.mem.bit L) ∧
        exec (.dispSym sym en) s = .next { s with
          mem := m
          bus := s.bus ++ traceOf s.cfg (framesOf s.cfg.numChunks { s with mem := m })
          initLeft := initLeftAfter s.cfg.numChunks s
          rsp := s.rsp ++ [⟨.ok, []⟩] }) ∧
    (s.cfg.numIcons ≤ sym.toNat →
      exec (.dispSym sym en) s = .next { s with rsp := s.rsp ++ [⟨.cfgErr, []⟩] })

/-- 40_display.md R143: DISP_SETTPL (opcode 0x07) writes the five template fields from the bits of its
byte and sends nothing. -/
def Obligations.SettplWritesTheTemplate : Prop :=
  ∀ (s : State) (ctl : Byte) (rest : List Byte) (cu : Bool) (p : BitVec 4) (dr sc bu : Bool),
    s.hung = false →
    decode (0x07 :: ctl :: rest) =
      .ok (.dispSettpl (ctl.getLsbD 0) (ctl.extractLsb' 1 4) (ctl.getLsbD 5) (ctl.getLsbD 6) (ctl.getLsbD 7),
        rest) ∧
    exec (.dispSettpl cu p dr sc bu) s =
      .next { s with tpl := ⟨cu, p, dr, sc, bu⟩, rsp := s.rsp ++ [⟨.ok, []⟩] }

/-- 40_display.md R146: the FrameEncoder on a memory with only bit 0 set sends one chunk that is not
empty, with bit 0 set, and dd counts the chunks in the order of their emission. -/
def Obligations.EncoderOnBitZero : Prop :=
  ∀ s : State, s.cfg.wf = true → s.hung = false → s.cfg.busMayHang = false → s.mem = ⟨1, 0, 0⟩ →
    ∃ Fs : List FrameWord, (encodeAndSend s).bus = s.bus ++ traceOf s.cfg Fs ∧
      Fs.map frameData = 1 :: List.replicate (s.cfg.numChunks - 1) 0 ∧
      Fs.map (fun F => (frameDd F).toNat) = List.range s.cfg.numChunks

/-- 40_display.md R145: after any display command but DISP_INIT that changed W or the trace and did not
hang, the last NUM_CHUNKS transactions carry the chunks of the W it left. -/
def Obligations.DisplayShowsMemory : Prop :=
  ∀ (s t : State) (i : Instr), s.cfg.wf = true → i.isCommand = true → i ≠ .dispInit →
    exec i s = .next t → t.hung = false → t.mem ≠ s.mem ∨ t.bus ≠ s.bus → BusShowsMemory t

/-- 60_exceptions.md R266, 40_display.md R131 (the draws are log 6, the eleventh event log 7, what had
been written log 10): with BUS_MAY_HANG a command that sends frames drives its events up to the
first after which the bus stops, and then never responds; if none stops it, it completes. -/
def Obligations.HangCutsTheTransfer : Prop :=
  ∀ (s p : State) (i : Instr) (n : Nat) (st : Status), s.hung = false → s.cfg.busMayHang = true →
    flushOf i s = some (n, p, st) →
    exec i s = .next { p with
      bus := p.bus ++ (traceOf p.cfg (framesOf n p)).take (drivenOf p.busDraws (11 * n))
      initLeft := initLeftAfter
        (if stopsWithin p.busDraws (11 * n) then (drivenOf p.busDraws (11 * n) - 1) / 11 else n) p
      hung := stopsWithin p.busDraws (11 * n)
      busDraws := p.busDraws.drop (drivenOf p.busDraws (11 * n))
      rsp := if stopsWithin p.busDraws (11 * n) then p.rsp else p.rsp ++ [⟨st, []⟩] }

/-! ### The debouncer -/

/-- 41_debounce.md R171, R172: one TICK, bit by bit: the sample of inverted pins and classified
average, its place in the ring, the AND of the ring, and the change vector. -/
def Obligations.TickTakesOneSample : Prop :=
  ∀ (s : State) (pins : KeyVec), s.ring ≠ [] → ∃ raw new : KeyVec,
    (∀ k, raw.testBit k =
      if k < s.cfg.numBtn then !pins.testBit k
      else (classify s.cfg (s.chanAt s.cfg.keyChannel).result).testBit (k - s.cfg.numBtn)) ∧
    (∀ k, new.testBit k = (s.ring.set s.ridx raw).all (·.testBit k)) ∧
    exec (.tick pins) s = .next { s with
      ring := s.ring.set s.ridx raw
      ridx := (s.ridx + 1) % s.cfg.depth
      changed := s.stable ^^^ new
      stable := new }

/-- 41_debounce.md R173: after N TICKs the debounced bit of a button is 1 exactly when all N samples
were active; an analog key's, exactly when the average lies in its bucket (no ADC_DONE between). -/
def Obligations.StableIsUnanimityOverTheWindow : Prop :=
  ∀ (s : State) (ps : List KeyVec), s.ring.length = s.cfg.depth → s.ridx < s.cfg.depth →
    ps.length = s.cfg.depth →
    ∃ t, execAll (ps.map Instr.tick) s = .next t ∧ t.ridx = s.ridx ∧
      (∀ k, k < s.cfg.numBtn → t.stable.testBit k = ps.all fun p => !p.testBit k) ∧
      (∀ j, t.stable.testBit (s.cfg.numBtn + j) =
        (classify s.cfg (s.chanAt s.cfg.keyChannel).result).testBit j)

/-- 41_debounce.md R173 (b), R174, 70_reset_and_hazards.md R312: one inactive sample releases a button
at once, and a button that was stable then shows a release edge. -/
def Obligations.ReleaseIsNotDebounced : Prop :=
  ∀ (s : State) (pins k : Nat), DebounceInv s → k < s.cfg.numBtn → pins.testBit k = true →
    ∃ t, exec (.tick pins) s = .next t ∧ t.stable.testBit k = false ∧
      t.released.testBit k = s.stable.testBit k ∧ t.pressed.testBit k = false

/-- 41_debounce.md R174 (the source's property): a button held from a quiet ring on becomes stable at
the N-th sample, and exactly there shows one press edge. -/
def Obligations.HeldButtonFiresOnePressEdge : Prop :=
  ∀ (s : State) (pins k n : Nat), 1 ≤ s.cfg.depth → s.ring = List.replicate s.cfg.depth 0 →
    s.ridx < s.cfg.depth → s.stable = 0 → k < s.cfg.numBtn → pins.testBit k = false → 1 ≤ n →
    ∃ t, execAll (List.replicate n (.tick pins)) s = .next t ∧
      t.stable.testBit k = decide (s.cfg.depth ≤ n) ∧ t.pressed.testBit k = decide (n = s.cfg.depth)

/-- 10_state.md R36, 41_debounce.md R174: in every state whose vectors have KW bits, the edge views
exclude each other, pressed lies inside stable and released outside it, and together they are
the changes. -/
def Obligations.EdgeViewsExcludeEachOther : Prop :=
  ∀ s : State, s.stable < 2 ^ s.cfg.kw → s.changed < 2 ^ s.cfg.kw →
    s.pressed &&& s.released = 0 ∧ s.pressed &&& s.stable = s.pressed ∧
    s.released &&& s.stable = 0 ∧ s.pressed ||| s.released = s.changed

/-- 41_debounce.md R175: KEY_STATUS (opcode 0x10) answers stable[key], or CFG_ERR, and changes nothing. -/
def Obligations.KeyStatusReadsStable : Prop :=
  ∀ (s : State) (key : Byte) (rest : List Byte), s.hung = false →
    decode (0x10 :: key :: rest) = .ok (.keyStatus key, rest) ∧
    exec (.keyStatus key) s = .next { s with
      rsp := s.rsp ++ [if key.toNat < s.cfg.kw then ⟨.ok, [if s.stable.testBit key.toNat then 1 else 0]⟩
        else ⟨.cfgErr, []⟩] }

/-- 41_debounce.md R176: KEY_PRESSED (opcode 0x11) answers changed[key] AND stable[key], or CFG_ERR, and clears
nothing. -/
def Obligations.KeyPressedReadsThePressEdge : Prop :=
  ∀ (s : State) (key : Byte) (rest : List Byte), s.hung = false →
    decode (0x11 :: key :: rest) = .ok (.keyPressed key, rest) ∧
    exec (.keyPressed key) s = .next { s with
      rsp := s.rsp ++ [if key.toNat < s.cfg.kw then
          ⟨.ok, [if s.changed.testBit key.toNat && s.stable.testBit key.toNat then 1 else 0]⟩
        else ⟨.cfgErr, []⟩] }

/-- 41_debounce.md R177: KEY_RELEASED (opcode 0x12) answers changed[key] AND NOT stable[key], or CFG_ERR, and clears
nothing. -/
def Obligations.KeyReleasedReadsTheReleaseEdge : Prop :=
  ∀ (s : State) (key : Byte) (rest : List Byte), s.hung = false →
    decode (0x12 :: key :: rest) = .ok (.keyReleased key, rest) ∧
    exec (.keyReleased key) s = .next { s with
      rsp := s.rsp ++ [if key.toNat < s.cfg.kw then
          ⟨.ok, [if s.changed.testBit key.toNat && !s.stable.testBit key.toNat then 1 else 0]⟩
        else ⟨.cfgErr, []⟩] }

/-- 41_debounce.md R178, R179: KEY_STATE (opcode 0x13) and KEY_PRESS (0x14) answer the vectors stable and changed AND
stable as KB bytes, low byte first, and change nothing. -/
def Obligations.KeyVectorsAreReadWhole : Prop :=
  ∀ (s : State) (rest : List Byte), s.hung = false → s.stable < 2 ^ s.cfg.kw → ∃ p q : List Byte,
    decode (0x13 :: rest) = .ok (.keyState, rest) ∧ decode (0x14 :: rest) = .ok (.keyPress, rest) ∧
    p.length = (s.cfg.kw + 7) / 8 ∧ q.length = (s.cfg.kw + 7) / 8 ∧
    payloadNumber p = s.stable ∧ payloadNumber q = s.changed &&& s.stable ∧
    exec .keyState s = .next { s with rsp := s.rsp ++ [⟨.ok, p⟩] } ∧
    exec .keyPress s = .next { s with rsp := s.rsp ++ [⟨.ok, q⟩] }

/-! ### The classifier -/

/-- 43_keyclass.md R240, R241: with a descending table a value gets the mask of the bucket whose lower
bound it is not below and whose next higher bound it is below; below every breakpoint, no key. -/
def Obligations.ClassifyFindsTheBucket : Prop :=
  ∀ (c : Config) (v : Reading), c.wf = true →
    (∀ j e, c.thresholds[j]? = some e → e.thresh ≤ v →
      (∀ f, 0 < j → c.thresholds[j - 1]? = some f → v < f.thresh) → classify c v = e.mask) ∧
    ((∀ e ∈ c.thresholds, v < e.thresh) → classify c v = 0)

/-- 43_keyclass.md R244: KEY_CLASSIFY (opcode 0x15) answers the mask as AB bytes, low byte first, and changes
nothing. -/
def Obligations.KeyClassifyAnswersTheMask : Prop :=
  ∀ (s : State) (v : Reading) (a b : Byte) (rest : List Byte), s.cfg.wf = true → s.hung = false →
    v.toNat = b.toNat % 4 * 256 + a.toNat → ∃ p : List Byte,
    decode (0x15 :: a :: b :: rest) = .ok (.keyClassify v, rest) ∧
    p.length = max 1 ((s.cfg.numAKey + 7) / 8) ∧ payloadNumber p = classify s.cfg v ∧
    exec (.keyClassify v) s = .next { s with rsp := s.rsp ++ [⟨.ok, p⟩] }

/-! ### The analog mux -/

/-- 42_adcmux.md R201, 60_exceptions.md R265: ADC_REG (opcode 0x20) with room and ns ≠ 0 adds the record and answers
its id, and the first one starts the sampler; a full table answers CAP_ERR whatever ns is, and
ns = 0 CFG_ERR, both with no other effect. -/
def Obligations.AdcRegAddsOneChannel : Prop :=
  ∀ (s : State) (sel cfg ns : Byte) (rest : List Byte) (ref : BitVec 2) (res : Bool), s.hung = false →
    decode (0x20 :: sel :: cfg :: ns :: rest) =
      .ok (.adcReg sel (cfg.extractLsb' 0 2) (cfg.getLsbD 2) ns, rest) ∧
    (s.nchan < 10 → ns ≠ 0 → exec (.adcReg sel ref res ns) s = .next { s with
      chan := s.chan.set s.nchan ⟨sel, ref, res, ns, 0, false⟩
      nchan := s.nchan + 1
      cur := if s.running then s.cur else 0
      acc := if s.running then s.acc else 0
      cnt := if s.running then s.cnt else 0
      running := true
      rsp := s.rsp ++ [⟨.ok, [BitVec.ofNat 8 s.nchan]⟩] }) ∧
    (10 ≤ s.nchan → exec (.adcReg sel ref res ns) s = .next { s with rsp := s.rsp ++ [⟨.capErr, []⟩] }) ∧
    (s.nchan < 10 → ns = 0 →
      exec (.adcReg sel ref res ns) s = .next { s with rsp := s.rsp ++ [⟨.cfgErr, []⟩] })

/-- 42_adcmux.md R203, R207: one ADC_DONE, in exact arithmetic: idle it does nothing; running it adds
the sample, and the ns-th sample publishes the floor of the mean and moves on. No sum wraps. -/
def Obligations.AdcDoneAccumulatesOrPublishes : Prop :=
  ∀ (s : State) (r : Reading), MuxInv s →
    (s.running = false → exec (.adcDone r) s = .next s) ∧
    (s.running = true → ∀ ch v, ch = s.chanAt s.cur →
      v = (if ch.res then r.toNat else r.toNat % 256) →
      s.acc.toNat + v < 2 ^ 18 ∧ s.cnt.toNat + 1 ≤ 255 ∧
      (s.cnt.toNat + 1 < ch.ns.toNat → exec (.adcDone r) s = .next { s with
        acc := BitVec.ofNat 18 (s.acc.toNat + v)
        cnt := BitVec.ofNat 8 (s.cnt.toNat + 1) }) ∧
      (s.cnt.toNat + 1 = ch.ns.toNat →
        (s.acc.toNat + v) / ch.ns.toNat < 2 ^ (if ch.res then 10 else 8) ∧
        exec (.adcDone r) s = .next { s with
          chan := s.chan.set s.cur { ch with
            result := BitVec.ofNat 10 ((s.acc.toNat + v) / ch.ns.toNat), ready := true }
          cur := (s.cur + 1) % s.nchan
          acc := 0
          cnt := 0 }))

/-- 42_adcmux.md R203, R205: a group of ns readings publishes the floor of their mean for the channel
at the cursor, and the cursor moves to the next channel, wrapping to the first. -/
def Obligations.GroupPublishesTheMean : Prop :=
  ∀ (s : State) (rs : List Reading) (ch : Channel), MuxInv s → s.running = true → s.cnt = 0 →
    ch = s.chanAt s.cur → rs.length = ch.ns.toNat →
    execAll (rs.map Instr.adcDone) s = .next { s with
      chan := s.chan.set s.cur { ch with
        result := BitVec.ofNat 10 ((rs.map (sampleNat ch.res)).sum / ch.ns.toNat), ready := true }
      cur := (s.cur + 1) % s.nchan
      acc := 0
      cnt := 0 }

/-- 42_adcmux.md R205 (the source's property): one full round, channel i fed the group `gs[i]`,
publishes every channel's mean in the order 0, 1, … and comes back to channel 0. -/
def Obligations.FullRoundPublishesEveryMean : Prop :=
  ∀ (s : State) (gs : List (List Reading)), MuxInv s → s.running = true → s.cur = 0 → s.cnt = 0 →
    gs.length = s.nchan → (∀ i g, gs[i]? = some g → g.length = (s.chanAt i).ns.toNat) →
    ∃ t, execAll (gs.flatten.map Instr.adcDone) s = .next t ∧ t.cur = 0 ∧ t.cnt = 0 ∧ t.acc = 0 ∧
      t.nchan = s.nchan ∧
      ∀ i g, gs[i]? = some g → t.chanAt i = { s.chanAt i with
        result := BitVec.ofNat 10 ((g.map (sampleNat (s.chanAt i).res)).sum / (s.chanAt i).ns.toNat)
        ready := true }

/-- 42_adcmux.md R206: ADC_GET (opcode 0x21) of a ready channel answers the result, low byte first, and clears only
its ready flag; of a channel not ready NO_DATA; of no channel CFG_ERR; both with no other effect. -/
def Obligations.AdcGetReadsAndClearsReady : Prop :=
  ∀ (s : State) (id : Byte) (rest : List Byte) (ch : Channel), s.hung = false →
    ch = s.chanAt id.toNat →
    decode (0x21 :: id :: rest) = .ok (.adcGet id, rest) ∧
    (id.toNat < s.nchan → ch.ready = true → ∃ p : List Byte,
      p.length = 2 ∧ payloadNumber p = ch.result.toNat ∧
      exec (.adcGet id) s = .next { s with
        chan := s.chan.set id.toNat { ch with ready := false }
        rsp := s.rsp ++ [⟨.ok, p⟩] }) ∧
    (id.toNat < s.nchan → ch.ready = false →
      exec (.adcGet id) s = .next { s with rsp := s.rsp ++ [⟨.noData, []⟩] }) ∧
    (s.nchan ≤ id.toNat → exec (.adcGet id) s = .next { s with rsp := s.rsp ++ [⟨.cfgErr, []⟩] })

/-- 20_memory.md R73, 42_adcmux.md R206: after a successful ADC_GET the next one of the same channel
answers NO_DATA, whatever runs between but a RESET and an ADC_DONE that publishes a result for that
channel: other commands, TICKs, and ADC_DONEs that accumulate or publish for another channel. -/
def Obligations.SecondAdcGetHasNoData : Prop :=
  ∀ (s t : State) (id : Byte) (between : List Instr), MuxInv s → id.toNat < s.nchan →
    (s.chanAt id.toNat).ready = true → t.hung = false →
    (∀ (pre post : List Instr) (i : Instr) (u : State), between = pre ++ i :: post →
      execAll (.adcGet id :: pre) s = .next u →
      i ≠ .reset ∧ ∀ r, i = .adcDone r → publishTarget u ≠ some id.toNat) →
    execAll (.adcGet id :: between) s = .next t →
    exec (.adcGet id) t = .next { t with rsp := t.rsp ++ [⟨.noData, []⟩] }

/-! ### Reset -/

/-- 70_reset_and_hazards.md R300: RESET sets every piece of Table S to its reset value, with chip-select
high, sends nothing and gives no response. -/
def Obligations.ResetSetsEveryPieceOfState : Prop :=
  ∀ s : State, ∃ t, exec .reset s = .next t ∧ t.cfg = s.cfg ∧
    t.mem = ⟨0, 0, 0⟩ ∧ t.tpl = ⟨false, 0, false, false, false⟩ ∧ t.initLeft = 4 ∧
    t.bus = [] ∧ t.csN = true ∧
    t.ring = List.replicate s.cfg.depth 0 ∧ t.ridx = 0 ∧ t.stable = 0 ∧ t.changed = 0 ∧
    t.nchan = 0 ∧ t.chan = List.replicate 10 ⟨0, 0, false, 0, 0, false⟩ ∧ t.cur = 0 ∧ t.acc = 0 ∧
    t.cnt = 0 ∧ t.running = false ∧ t.rsp = s.rsp

/-- The model's choice for its own fields (log 5, 8 and 24): RESET ends a hang and drops the received
bytes of a command that is not whole; the arrivals to come and the draws stay. -/
def Obligations.ResetAbandonsTheCommandInProgress : Prop :=
  ∀ s : State, ∃ t, exec .reset s = .next t ∧ t.hung = false ∧ t.rx = [] ∧
    t.inputs = s.inputs ∧ t.busDraws = s.busDraws ∧
    (s.cfg.wf = true → ∀ (i : Instr) (more : List Input), i.isCommand = true → i.wf s.cfg = true →
      s.inputs = (encode i).map Input.byte ++ more → step t = exec i { t with inputs := more })

/-- 70_reset_and_hazards.md R300, 10_state.md R42 on `State.reset`: every row of Table S at its reset
value, chip-select high, no edge. The model's choice: the configuration is T0 (log 1), and its own fields
hung, busDraws, rsp, rx and inputs are false or empty (log 14). -/
def Obligations.ResetStateHoldsTheResetValues : Prop :=
  State.reset.mem = ⟨0, 0, 0⟩ ∧ State.reset.tpl = ⟨false, 0, false, false, false⟩ ∧
  State.reset.initLeft = 4 ∧ State.reset.bus = [] ∧ State.reset.csN = true ∧
  State.reset.ring = List.replicate 10 0 ∧ State.reset.ridx = 0 ∧
  State.reset.stable = 0 ∧ State.reset.changed = 0 ∧
  State.reset.pressed = 0 ∧ State.reset.released = 0 ∧
  State.reset.nchan = 0 ∧ State.reset.chan = List.replicate 10 ⟨0, 0, false, 0, 0, false⟩ ∧
  State.reset.cur = 0 ∧ State.reset.acc = 0 ∧ State.reset.cnt = 0 ∧ State.reset.running = false ∧
  State.reset.cfg = Config.t0 ∧ State.reset.hung = false ∧ State.reset.busDraws = [] ∧
  State.reset.rsp = [] ∧ State.reset.rx = [] ∧ State.reset.inputs = []

/-! ### The whole machine -/

/-- 10_state.md R25, R33 to R41, 41_debounce.md R171, 42_adcmux.md R207, R208, 60_exceptions.md R266:
every step keeps the invariant of the three groups, whatever arrives and whether or not the bus hangs. The
trace of a hung block may end in a whole transaction (`DisplayInv.trace_cut` admits a stop after the
eleventh event): that is log 7, where 30_encoding.md R110 says a proper prefix. -/
def Obligations.EveryStepKeepsTheInvariant : Prop :=
  ∀ s t : State, Inv s → step s = .next t → Inv t

/-- The invariant holds at `State.reset` (whose configuration is log 1). -/
def Obligations.ResetStateMeetsTheInvariant : Prop := Inv State.reset

/-- 60_exceptions.md R260, R263, 70_reset_and_hazards.md R322: no error and no event ends a run, so a
step of a block with a well-formed configuration answers a next state. The model's choice: where nothing
is at hand to run, and where a hung block has only bytes waiting, the step waits and answers the same
state (log 2, 9), where 30_encoding.md R92 says no step is taken and 60_exceptions.md R266 calls the block
stuck; and that there is no fault at all is the model's reading (log 22). -/
def Obligations.EveryStepAnswersANextState : Prop :=
  ∀ s : State, s.cfg.wf = true → ∃ t, step s = .next t ∧ t.cfg = s.cfg

/-- 10_state.md R42 (Table S), R43, 20_memory.md R75: each row of Table S is written only by its
writers, a record of the channel table field by field, and RESET; whatever else runs leaves it. `flushOf`
is none for a form that sends no frame. The first ADC_REG rewrites the 0 that acc and cnt hold (R201),
which is a change only in a state no run reaches. The model's own fields come last (log 5, 8, 24). -/
def Obligations.OnlyTheWritersWrite : Prop :=
  ∀ (s t : State) (i : Instr), exec i s = .next t →
    (t.mem = s.mem ∨ i = .dispClear ∨ (∃ p c, i = .dispPutc p c) ∨ (∃ p l, i = .dispPuts p l) ∨
      (∃ y e, i = .dispSym y e) ∨ i = .reset) ∧
    (t.tpl = s.tpl ∨ (∃ cu p dr sc bu, i = .dispSettpl cu p dr sc bu) ∨ i = .reset) ∧
    (t.initLeft = s.initLeft ∧ t.bus = s.bus ∨ flushOf i s ≠ none ∨ i = .reset) ∧
    (t.ring = s.ring ∧ t.ridx = s.ridx ∧ t.stable = s.stable ∧ t.changed = s.changed ∨
      (∃ p, i = .tick p) ∨ i = .reset) ∧
    (t.nchan = s.nchan ∨ (∃ a b c d, i = .adcReg a b c d) ∨ i = .reset) ∧
    (∀ k, ((t.chanAt k).sel = (s.chanAt k).sel ∧ (t.chanAt k).ref = (s.chanAt k).ref ∧
        (t.chanAt k).res = (s.chanAt k).res ∧ (t.chanAt k).ns = (s.chanAt k).ns ∨
      (∃ a b c d, i = .adcReg a b c d) ∧ k = s.nchan ∨ i = .reset) ∧
      ((t.chanAt k).result = (s.chanAt k).result ∨
        (∃ r, i = .adcDone r) ∧ publishTarget s = some k ∨
        (∃ a b c d, i = .adcReg a b c d) ∧ k = s.nchan ∧ (t.chanAt k).result = 0 ∨ i = .reset) ∧
      ((t.chanAt k).ready = (s.chanAt k).ready ∨
        (∃ r, i = .adcDone r) ∧ publishTarget s = some k ∧ (t.chanAt k).ready = true ∨
        (∃ id, i = .adcGet id ∧ k = id.toNat) ∧ (t.chanAt k).ready = false ∨
        (∃ a b c d, i = .adcReg a b c d) ∧ k = s.nchan ∧ (t.chanAt k).ready = false ∨ i = .reset)) ∧
    (t.chan.length = s.chan.length ∨ i = .reset) ∧
    (t.cur = s.cur ∨ (∃ r, i = .adcDone r) ∧ publishTarget s = some s.cur ∨
      (∃ a b c d, i = .adcReg a b c d) ∧ s.running = false ∧ t.cur = 0 ∨ i = .reset) ∧
    (t.acc = s.acc ∧ t.cnt = s.cnt ∨ (∃ r, i = .adcDone r) ∧ s.running = true ∨
      (∃ a b c d, i = .adcReg a b c d) ∧ s.running = false ∧ t.acc = 0 ∧ t.cnt = 0 ∧ ¬ MuxInv s ∨
      i = .reset) ∧
    (t.running = s.running ∨
      (∃ a b c d, i = .adcReg a b c d) ∧ s.running = false ∧ t.running = true ∨ i = .reset) ∧
    t.cfg = s.cfg ∧ t.inputs = s.inputs ∧ (t.rx = s.rx ∨ i = .reset) ∧
    (t.rsp = s.rsp ∨ i.isCommand = true) ∧
    (t.hung = s.hung ∨ flushOf i s ≠ none ∨ i = .reset) ∧
    (t.busDraws = s.busDraws ∨ flushOf i s ≠ none)

/-- 30_encoding.md R98, 60_exceptions.md R261, R263: a command that does not hang adds exactly one
response; a payload stands only beside OK and has the length of Table R; an event adds none. -/
def Obligations.OneResponsePerCommand : Prop :=
  ∀ (s t : State) (i : Instr), exec i s = .next t →
    (i.isCommand = true → s.hung = false → t.hung = false → ∃ r : Response,
      t.rsp = s.rsp ++ [r] ∧ (r.status ≠ .ok → r.payload = []) ∧
      (r.status = .ok → r.payload.length = okPayloadLength s.cfg i) ∧
      r.bytes = (if r.status = .ok then 0x00 else if r.status = .cfgErr then 0x01
        else if r.status = .capErr then 0x02 else 0x03) :: r.payload) ∧
    (i.isCommand = false → t.rsp = s.rsp)

/-- 60_exceptions.md R262: a response other than OK of any command but DISP_PUTS comes with no other
effect, and the next command finds the state as it was. -/
def Obligations.ErrorLeavesTheStateAlone : Prop :=
  ∀ (s t : State) (i : Instr) (r : Response), i.isCommand = true → (∀ p l, i ≠ .dispPuts p l) →
    exec i s = .next t → t.rsp = s.rsp ++ [r] → r.status ≠ .ok →
    t = { s with rsp := s.rsp ++ [r] }

/-- 20_memory.md R71: a display command and an event commute, so an event inside a display command
would leave the same state and the same trace. -/
def Obligations.EventsAndDisplayCommandsCommute : Prop :=
  ∀ (s : State) (i ev : Instr), isDisplay i = true → isEvent ev = true →
    ∃ t, execAll [i, ev] s = .next t ∧ execAll [ev, i] s = .next t

/-- 60_exceptions.md R271: a TICK and an ADC_DONE taken in either order leave the same state, unless the
ADC_DONE publishes a result for KEY_CHANNEL. -/
def Obligations.TickAndAdcDoneCommute : Prop :=
  ∀ (s : State) (pins : KeyVec) (r : Reading),
    s.running = false ∨ s.cur ≠ s.cfg.keyChannel ∨ s.cnt + 1 ≠ (s.chanAt s.cur).ns →
    ∃ t, execAll [.tick pins, .adcDone r] s = .next t ∧ execAll [.adcDone r, .tick pins] s = .next t

/-- 30_encoding.md R110, 10_state.md R31: whenever the trace is whole transactions, as it is between the
steps of a block that does not hang, chip-select is high. -/
def Obligations.ChipSelectIsHighBetweenSteps : Prop :=
  ∀ s : State, DisplayInv s → s.hung = false → s.csN = true
end

