-- ==== Sys2Proof/Laws/State.lean ====
section
/-! SUPPORT. The state record under each named update: one lemma per field per update, so that no proof
unfolds a record update. An update that depends on the state is covered for the fields it never
touches; what it does to the others is said in Laws/Ops.lean. -/

namespace Sys2Proof.Machine

@[simp] theorem answered_cfg (st : Status) (p : List Byte) (s : State) : (answered st p s).cfg = s.cfg := rfl
@[simp] theorem answered_mem (st : Status) (p : List Byte) (s : State) : (answered st p s).mem = s.mem := rfl
@[simp] theorem answered_tpl (st : Status) (p : List Byte) (s : State) : (answered st p s).tpl = s.tpl := rfl
@[simp] theorem answered_initLeft (st : Status) (p : List Byte) (s : State) : (answered st p s).initLeft = s.initLeft := rfl
@[simp] theorem answered_bus (st : Status) (p : List Byte) (s : State) : (answered st p s).bus = s.bus := rfl
@[simp] theorem answered_ring (st : Status) (p : List Byte) (s : State) : (answered st p s).ring = s.ring := rfl
@[simp] theorem answered_ridx (st : Status) (p : List Byte) (s : State) : (answered st p s).ridx = s.ridx := rfl
@[simp] theorem answered_stable (st : Status) (p : List Byte) (s : State) : (answered st p s).stable = s.stable := rfl
@[simp] theorem answered_changed (st : Status) (p : List Byte) (s : State) : (answered st p s).changed = s.changed := rfl
@[simp] theorem answered_nchan (st : Status) (p : List Byte) (s : State) : (answered st p s).nchan = s.nchan := rfl
@[simp] theorem answered_chan (st : Status) (p : List Byte) (s : State) : (answered st p s).chan = s.chan := rfl
@[simp] theorem answered_cur (st : Status) (p : List Byte) (s : State) : (answered st p s).cur = s.cur := rfl
@[simp] theorem answered_acc (st : Status) (p : List Byte) (s : State) : (answered st p s).acc = s.acc := rfl
@[simp] theorem answered_cnt (st : Status) (p : List Byte) (s : State) : (answered st p s).cnt = s.cnt := rfl
@[simp] theorem answered_running (st : Status) (p : List Byte) (s : State) : (answered st p s).running = s.running := rfl
@[simp] theorem answered_hung (st : Status) (p : List Byte) (s : State) : (answered st p s).hung = s.hung := rfl
@[simp] theorem answered_busDraws (st : Status) (p : List Byte) (s : State) : (answered st p s).busDraws = s.busDraws := rfl
@[simp] theorem answered_rsp (st : Status) (p : List Byte) (s : State) : (answered st p s).rsp = s.rsp ++ [⟨st, p⟩] := rfl
@[simp] theorem answered_rx (st : Status) (p : List Byte) (s : State) : (answered st p s).rx = s.rx := rfl
@[simp] theorem answered_inputs (st : Status) (p : List Byte) (s : State) : (answered st p s).inputs = s.inputs := rfl

@[simp] theorem sentFrames_cfg (n : Nat) (s : State) : (sentFrames n s).cfg = s.cfg := rfl
@[simp] theorem sentFrames_mem (n : Nat) (s : State) : (sentFrames n s).mem = s.mem := rfl
@[simp] theorem sentFrames_tpl (n : Nat) (s : State) : (sentFrames n s).tpl = s.tpl := rfl
@[simp] theorem sentFrames_initLeft (n : Nat) (s : State) : (sentFrames n s).initLeft = initLeftAfter n s := rfl
@[simp] theorem sentFrames_bus (n : Nat) (s : State) : (sentFrames n s).bus = s.bus ++ traceOf s.cfg (framesOf n s) := rfl
@[simp] theorem sentFrames_ring (n : Nat) (s : State) : (sentFrames n s).ring = s.ring := rfl
@[simp] theorem sentFrames_ridx (n : Nat) (s : State) : (sentFrames n s).ridx = s.ridx := rfl
@[simp] theorem sentFrames_stable (n : Nat) (s : State) : (sentFrames n s).stable = s.stable := rfl
@[simp] theorem sentFrames_changed (n : Nat) (s : State) : (sentFrames n s).changed = s.changed := rfl
@[simp] theorem sentFrames_nchan (n : Nat) (s : State) : (sentFrames n s).nchan = s.nchan := rfl
@[simp] theorem sentFrames_chan (n : Nat) (s : State) : (sentFrames n s).chan = s.chan := rfl
@[simp] theorem sentFrames_cur (n : Nat) (s : State) : (sentFrames n s).cur = s.cur := rfl
@[simp] theorem sentFrames_acc (n : Nat) (s : State) : (sentFrames n s).acc = s.acc := rfl
@[simp] theorem sentFrames_cnt (n : Nat) (s : State) : (sentFrames n s).cnt = s.cnt := rfl
@[simp] theorem sentFrames_running (n : Nat) (s : State) : (sentFrames n s).running = s.running := rfl
@[simp] theorem sentFrames_hung (n : Nat) (s : State) : (sentFrames n s).hung = s.hung := rfl
@[simp] theorem sentFrames_busDraws (n : Nat) (s : State) : (sentFrames n s).busDraws = s.busDraws := rfl
@[simp] theorem sentFrames_rsp (n : Nat) (s : State) : (sentFrames n s).rsp = s.rsp := rfl
@[simp] theorem sentFrames_rx (n : Nat) (s : State) : (sentFrames n s).rx = s.rx := rfl
@[simp] theorem sentFrames_inputs (n : Nat) (s : State) : (sentFrames n s).inputs = s.inputs := rfl

@[simp] theorem sentFramesMayHang_cfg (n : Nat) (s : State) : (sentFramesMayHang n s).cfg = s.cfg := rfl
@[simp] theorem sentFramesMayHang_mem (n : Nat) (s : State) : (sentFramesMayHang n s).mem = s.mem := rfl
@[simp] theorem sentFramesMayHang_tpl (n : Nat) (s : State) : (sentFramesMayHang n s).tpl = s.tpl := rfl
@[simp] theorem sentFramesMayHang_bus (n : Nat) (s : State) : (sentFramesMayHang n s).bus = s.bus ++ (traceOf s.cfg (framesOf n s)).take (drivenOf s.busDraws (eventsPerFrame * n)) := rfl
@[simp] theorem sentFramesMayHang_ring (n : Nat) (s : State) : (sentFramesMayHang n s).ring = s.ring := rfl
@[simp] theorem sentFramesMayHang_ridx (n : Nat) (s : State) : (sentFramesMayHang n s).ridx = s.ridx := rfl
@[simp] theorem sentFramesMayHang_stable (n : Nat) (s : State) : (sentFramesMayHang n s).stable = s.stable := rfl
@[simp] theorem sentFramesMayHang_changed (n : Nat) (s : State) : (sentFramesMayHang n s).changed = s.changed := rfl
@[simp] theorem sentFramesMayHang_nchan (n : Nat) (s : State) : (sentFramesMayHang n s).nchan = s.nchan := rfl
@[simp] theorem sentFramesMayHang_chan (n : Nat) (s : State) : (sentFramesMayHang n s).chan = s.chan := rfl
@[simp] theorem sentFramesMayHang_cur (n : Nat) (s : State) : (sentFramesMayHang n s).cur = s.cur := rfl
@[simp] theorem sentFramesMayHang_acc (n : Nat) (s : State) : (sentFramesMayHang n s).acc = s.acc := rfl
@[simp] theorem sentFramesMayHang_cnt (n : Nat) (s : State) : (sentFramesMayHang n s).cnt = s.cnt := rfl
@[simp] theorem sentFramesMayHang_running (n : Nat) (s : State) : (sentFramesMayHang n s).running = s.running := rfl
@[simp] theorem sentFramesMayHang_hung (n : Nat) (s : State) : (sentFramesMayHang n s).hung = stopsWithin s.busDraws (eventsPerFrame * n) := rfl
@[simp] theorem sentFramesMayHang_busDraws (n : Nat) (s : State) : (sentFramesMayHang n s).busDraws = s.busDraws.drop (drivenOf s.busDraws (eventsPerFrame * n)) := rfl
@[simp] theorem sentFramesMayHang_rsp (n : Nat) (s : State) : (sentFramesMayHang n s).rsp = s.rsp := rfl
@[simp] theorem sentFramesMayHang_rx (n : Nat) (s : State) : (sentFramesMayHang n s).rx = s.rx := rfl
@[simp] theorem sentFramesMayHang_inputs (n : Nat) (s : State) : (sentFramesMayHang n s).inputs = s.inputs := rfl

@[simp] theorem setChan_cfg (s : State) (i : Nat) (ch : Channel) : (s.setChan i ch).cfg = s.cfg := rfl
@[simp] theorem setChan_mem (s : State) (i : Nat) (ch : Channel) : (s.setChan i ch).mem = s.mem := rfl
@[simp] theorem setChan_tpl (s : State) (i : Nat) (ch : Channel) : (s.setChan i ch).tpl = s.tpl := rfl
@[simp] theorem setChan_initLeft (s : State) (i : Nat) (ch : Channel) : (s.setChan i ch).initLeft = s.initLeft := rfl
@[simp] theorem setChan_bus (s : State) (i : Nat) (ch : Channel) : (s.setChan i ch).bus = s.bus := rfl
@[simp] theorem setChan_ring (s : State) (i : Nat) (ch : Channel) : (s.setChan i ch).ring = s.ring := rfl
@[simp] theorem setChan_ridx (s : State) (i : Nat) (ch : Channel) : (s.setChan i ch).ridx = s.ridx := rfl
@[simp] theorem setChan_stable (s : State) (i : Nat) (ch : Channel) : (s.setChan i ch).stable = s.stable := rfl
@[simp] theorem setChan_changed (s : State) (i : Nat) (ch : Channel) : (s.setChan i ch).changed = s.changed := rfl
@[simp] theorem setChan_nchan (s : State) (i : Nat) (ch : Channel) : (s.setChan i ch).nchan = s.nchan := rfl
@[simp] theorem setChan_chan (s : State) (i : Nat) (ch : Channel) : (s.setChan i ch).chan = s.chan.set i ch := rfl
@[simp] theorem setChan_cur (s : State) (i : Nat) (ch : Channel) : (s.setChan i ch).cur = s.cur := rfl
@[simp] theorem setChan_acc (s : State) (i : Nat) (ch : Channel) : (s.setChan i ch).acc = s.acc := rfl
@[simp] theorem setChan_cnt (s : State) (i : Nat) (ch : Channel) : (s.setChan i ch).cnt = s.cnt := rfl
@[simp] theorem setChan_running (s : State) (i : Nat) (ch : Channel) : (s.setChan i ch).running = s.running := rfl
@[simp] theorem setChan_hung (s : State) (i : Nat) (ch : Channel) : (s.setChan i ch).hung = s.hung := rfl
@[simp] theorem setChan_busDraws (s : State) (i : Nat) (ch : Channel) : (s.setChan i ch).busDraws = s.busDraws := rfl
@[simp] theorem setChan_rsp (s : State) (i : Nat) (ch : Channel) : (s.setChan i ch).rsp = s.rsp := rfl
@[simp] theorem setChan_rx (s : State) (i : Nat) (ch : Channel) : (s.setChan i ch).rx = s.rx := rfl
@[simp] theorem setChan_inputs (s : State) (i : Nat) (ch : Channel) : (s.setChan i ch).inputs = s.inputs := rfl

@[simp] theorem pushSample_cfg (raw : KeyVec) (s : State) : (pushSample raw s).cfg = s.cfg := rfl
@[simp] theorem pushSample_mem (raw : KeyVec) (s : State) : (pushSample raw s).mem = s.mem := rfl
@[simp] theorem pushSample_tpl (raw : KeyVec) (s : State) : (pushSample raw s).tpl = s.tpl := rfl
@[simp] theorem pushSample_initLeft (raw : KeyVec) (s : State) : (pushSample raw s).initLeft = s.initLeft := rfl
@[simp] theorem pushSample_bus (raw : KeyVec) (s : State) : (pushSample raw s).bus = s.bus := rfl
@[simp] theorem pushSample_ring (raw : KeyVec) (s : State) : (pushSample raw s).ring = s.ring.set s.ridx raw := rfl
@[simp] theorem pushSample_ridx (raw : KeyVec) (s : State) : (pushSample raw s).ridx = (s.ridx + 1) % s.cfg.depth := rfl
@[simp] theorem pushSample_stable (raw : KeyVec) (s : State) : (pushSample raw s).stable = andAll (s.ring.set s.ridx raw) := rfl
@[simp] theorem pushSample_changed (raw : KeyVec) (s : State) : (pushSample raw s).changed = s.stable ^^^ andAll (s.ring.set s.ridx raw) := rfl
@[simp] theorem pushSample_nchan (raw : KeyVec) (s : State) : (pushSample raw s).nchan = s.nchan := rfl
@[simp] theorem pushSample_chan (raw : KeyVec) (s : State) : (pushSample raw s).chan = s.chan := rfl
@[simp] theorem pushSample_cur (raw : KeyVec) (s : State) : (pushSample raw s).cur = s.cur := rfl
@[simp] theorem pushSample_acc (raw : KeyVec) (s : State) : (pushSample raw s).acc = s.acc := rfl
@[simp] theorem pushSample_cnt (raw : KeyVec) (s : State) : (pushSample raw s).cnt = s.cnt := rfl
@[simp] theorem pushSample_running (raw : KeyVec) (s : State) : (pushSample raw s).running = s.running := rfl
@[simp] theorem pushSample_hung (raw : KeyVec) (s : State) : (pushSample raw s).hung = s.hung := rfl
@[simp] theorem pushSample_busDraws (raw : KeyVec) (s : State) : (pushSample raw s).busDraws = s.busDraws := rfl
@[simp] theorem pushSample_rsp (raw : KeyVec) (s : State) : (pushSample raw s).rsp = s.rsp := rfl
@[simp] theorem pushSample_rx (raw : KeyVec) (s : State) : (pushSample raw s).rx = s.rx := rfl
@[simp] theorem pushSample_inputs (raw : KeyVec) (s : State) : (pushSample raw s).inputs = s.inputs := rfl

@[simp] theorem addChannel_cfg (sel : Byte) (ref : BitVec 2) (res : Bool) (ns : Byte) (s : State) : (addChannel sel ref res ns s).cfg = s.cfg := rfl
@[simp] theorem addChannel_mem (sel : Byte) (ref : BitVec 2) (res : Bool) (ns : Byte) (s : State) : (addChannel sel ref res ns s).mem = s.mem := rfl
@[simp] theorem addChannel_tpl (sel : Byte) (ref : BitVec 2) (res : Bool) (ns : Byte) (s : State) : (addChannel sel ref res ns s).tpl = s.tpl := rfl
@[simp] theorem addChannel_initLeft (sel : Byte) (ref : BitVec 2) (res : Bool) (ns : Byte) (s : State) : (addChannel sel ref res ns s).initLeft = s.initLeft := rfl
@[simp] theorem addChannel_bus (sel : Byte) (ref : BitVec 2) (res : Bool) (ns : Byte) (s : State) : (addChannel sel ref res ns s).bus = s.bus := rfl
@[simp] theorem addChannel_ring (sel : Byte) (ref : BitVec 2) (res : Bool) (ns : Byte) (s : State) : (addChannel sel ref res ns s).ring = s.ring := rfl
@[simp] theorem addChannel_ridx (sel : Byte) (ref : BitVec 2) (res : Bool) (ns : Byte) (s : State) : (addChannel sel ref res ns s).ridx = s.ridx := rfl
@[simp] theorem addChannel_stable (sel : Byte) (ref : BitVec 2) (res : Bool) (ns : Byte) (s : State) : (addChannel sel ref res ns s).stable = s.stable := rfl
@[simp] theorem addChannel_changed (sel : Byte) (ref : BitVec 2) (res : Bool) (ns : Byte) (s : State) : (addChannel sel ref res ns s).changed = s.changed := rfl
@[simp] theorem addChannel_nchan (sel : Byte) (ref : BitVec 2) (res : Bool) (ns : Byte) (s : State) : (addChannel sel ref res ns s).nchan = s.nchan + 1 := rfl
@[simp] theorem addChannel_chan (sel : Byte) (ref : BitVec 2) (res : Bool) (ns : Byte) (s : State) : (addChannel sel ref res ns s).chan = s.chan.set s.nchan ⟨sel, ref, res, ns, 0, false⟩ := rfl
@[simp] theorem addChannel_cur (sel : Byte) (ref : BitVec 2) (res : Bool) (ns : Byte) (s : State) : (addChannel sel ref res ns s).cur = s.cur := rfl
@[simp] theorem addChannel_acc (sel : Byte) (ref : BitVec 2) (res : Bool) (ns : Byte) (s : State) : (addChannel sel ref res ns s).acc = s.acc := rfl
@[simp] theorem addChannel_cnt (sel : Byte) (ref : BitVec 2) (res : Bool) (ns : Byte) (s : State) : (addChannel sel ref res ns s).cnt = s.cnt := rfl
@[simp] theorem addChannel_running (sel : Byte) (ref : BitVec 2) (res : Bool) (ns : Byte) (s : State) : (addChannel sel ref res ns s).running = s.running := rfl
@[simp] theorem addChannel_hung (sel : Byte) (ref : BitVec 2) (res : Bool) (ns : Byte) (s : State) : (addChannel sel ref res ns s).hung = s.hung := rfl
@[simp] theorem addChannel_busDraws (sel : Byte) (ref : BitVec 2) (res : Bool) (ns : Byte) (s : State) : (addChannel sel ref res ns s).busDraws = s.busDraws := rfl
@[simp] theorem addChannel_rsp (sel : Byte) (ref : BitVec 2) (res : Bool) (ns : Byte) (s : State) : (addChannel sel ref res ns s).rsp = s.rsp := rfl
@[simp] theorem addChannel_rx (sel : Byte) (ref : BitVec 2) (res : Bool) (ns : Byte) (s : State) : (addChannel sel ref res ns s).rx = s.rx := rfl
@[simp] theorem addChannel_inputs (sel : Byte) (ref : BitVec 2) (res : Bool) (ns : Byte) (s : State) : (addChannel sel ref res ns s).inputs = s.inputs := rfl

@[simp] theorem publish_cfg (a : BitVec 18) (s : State) : (publish a s).cfg = s.cfg := rfl
@[simp] theorem publish_mem (a : BitVec 18) (s : State) : (publish a s).mem = s.mem := rfl
@[simp] theorem publish_tpl (a : BitVec 18) (s : State) : (publish a s).tpl = s.tpl := rfl
@[simp] theorem publish_initLeft (a : BitVec 18) (s : State) : (publish a s).initLeft = s.initLeft := rfl
@[simp] theorem publish_bus (a : BitVec 18) (s : State) : (publish a s).bus = s.bus := rfl
@[simp] theorem publish_ring (a : BitVec 18) (s : State) : (publish a s).ring = s.ring := rfl
@[simp] theorem publish_ridx (a : BitVec 18) (s : State) : (publish a s).ridx = s.ridx := rfl
@[simp] theorem publish_stable (a : BitVec 18) (s : State) : (publish a s).stable = s.stable := rfl
@[simp] theorem publish_changed (a : BitVec 18) (s : State) : (publish a s).changed = s.changed := rfl
@[simp] theorem publish_nchan (a : BitVec 18) (s : State) : (publish a s).nchan = s.nchan := rfl
@[simp] theorem publish_cur (a : BitVec 18) (s : State) : (publish a s).cur = (s.cur + 1) % s.nchan := rfl
@[simp] theorem publish_acc (a : BitVec 18) (s : State) : (publish a s).acc = 0 := rfl
@[simp] theorem publish_cnt (a : BitVec 18) (s : State) : (publish a s).cnt = 0 := rfl
@[simp] theorem publish_running (a : BitVec 18) (s : State) : (publish a s).running = s.running := rfl
@[simp] theorem publish_hung (a : BitVec 18) (s : State) : (publish a s).hung = s.hung := rfl
@[simp] theorem publish_busDraws (a : BitVec 18) (s : State) : (publish a s).busDraws = s.busDraws := rfl
@[simp] theorem publish_rsp (a : BitVec 18) (s : State) : (publish a s).rsp = s.rsp := rfl
@[simp] theorem publish_rx (a : BitVec 18) (s : State) : (publish a s).rx = s.rx := rfl
@[simp] theorem publish_inputs (a : BitVec 18) (s : State) : (publish a s).inputs = s.inputs := rfl

@[simp] theorem resetState_cfg (s : State) : (resetState s).cfg = s.cfg := rfl
@[simp] theorem resetState_mem (s : State) : (resetState s).mem = ⟨0, 0, 0⟩ := rfl
@[simp] theorem resetState_tpl (s : State) : (resetState s).tpl = ⟨false, 0, false, false, false⟩ := rfl
@[simp] theorem resetState_initLeft (s : State) : (resetState s).initLeft = 4 := rfl
@[simp] theorem resetState_bus (s : State) : (resetState s).bus = [] := rfl
@[simp] theorem resetState_ring (s : State) : (resetState s).ring = List.replicate s.cfg.depth 0 := rfl
@[simp] theorem resetState_ridx (s : State) : (resetState s).ridx = 0 := rfl
@[simp] theorem resetState_stable (s : State) : (resetState s).stable = 0 := rfl
@[simp] theorem resetState_changed (s : State) : (resetState s).changed = 0 := rfl
@[simp] theorem resetState_nchan (s : State) : (resetState s).nchan = 0 := rfl
@[simp] theorem resetState_chan (s : State) : (resetState s).chan = List.replicate 10 Channel.zero := rfl
@[simp] theorem resetState_cur (s : State) : (resetState s).cur = 0 := rfl
@[simp] theorem resetState_acc (s : State) : (resetState s).acc = 0 := rfl
@[simp] theorem resetState_cnt (s : State) : (resetState s).cnt = 0 := rfl
@[simp] theorem resetState_running (s : State) : (resetState s).running = false := rfl
@[simp] theorem resetState_hung (s : State) : (resetState s).hung = false := rfl
@[simp] theorem resetState_busDraws (s : State) : (resetState s).busDraws = s.busDraws := rfl
@[simp] theorem resetState_rsp (s : State) : (resetState s).rsp = s.rsp := rfl
@[simp] theorem resetState_rx (s : State) : (resetState s).rx = [] := rfl
@[simp] theorem resetState_inputs (s : State) : (resetState s).inputs = s.inputs := rfl

@[simp] theorem withFetchWord_cfg (s : State) (nbits w : Nat) : (s.withFetchWord nbits w).cfg = s.cfg := rfl
@[simp] theorem withFetchWord_mem (s : State) (nbits w : Nat) : (s.withFetchWord nbits w).mem = s.mem := rfl
@[simp] theorem withFetchWord_tpl (s : State) (nbits w : Nat) : (s.withFetchWord nbits w).tpl = s.tpl := rfl
@[simp] theorem withFetchWord_initLeft (s : State) (nbits w : Nat) : (s.withFetchWord nbits w).initLeft = s.initLeft := rfl
@[simp] theorem withFetchWord_bus (s : State) (nbits w : Nat) : (s.withFetchWord nbits w).bus = s.bus := rfl
@[simp] theorem withFetchWord_ring (s : State) (nbits w : Nat) : (s.withFetchWord nbits w).ring = s.ring := rfl
@[simp] theorem withFetchWord_ridx (s : State) (nbits w : Nat) : (s.withFetchWord nbits w).ridx = s.ridx := rfl
@[simp] theorem withFetchWord_stable (s : State) (nbits w : Nat) : (s.withFetchWord nbits w).stable = s.stable := rfl
@[simp] theorem withFetchWord_changed (s : State) (nbits w : Nat) : (s.withFetchWord nbits w).changed = s.changed := rfl
@[simp] theorem withFetchWord_nchan (s : State) (nbits w : Nat) : (s.withFetchWord nbits w).nchan = s.nchan := rfl
@[simp] theorem withFetchWord_chan (s : State) (nbits w : Nat) : (s.withFetchWord nbits w).chan = s.chan := rfl
@[simp] theorem withFetchWord_cur (s : State) (nbits w : Nat) : (s.withFetchWord nbits w).cur = s.cur := rfl
@[simp] theorem withFetchWord_acc (s : State) (nbits w : Nat) : (s.withFetchWord nbits w).acc = s.acc := rfl
@[simp] theorem withFetchWord_cnt (s : State) (nbits w : Nat) : (s.withFetchWord nbits w).cnt = s.cnt := rfl
@[simp] theorem withFetchWord_running (s : State) (nbits w : Nat) : (s.withFetchWord nbits w).running = s.running := rfl
@[simp] theorem withFetchWord_hung (s : State) (nbits w : Nat) : (s.withFetchWord nbits w).hung = false := rfl
@[simp] theorem withFetchWord_busDraws (s : State) (nbits w : Nat) : (s.withFetchWord nbits w).busDraws = s.busDraws := rfl
@[simp] theorem withFetchWord_rsp (s : State) (nbits w : Nat) : (s.withFetchWord nbits w).rsp = s.rsp := rfl
@[simp] theorem withFetchWord_rx (s : State) (nbits w : Nat) : (s.withFetchWord nbits w).rx = tableCommand nbits w := rfl
@[simp] theorem withFetchWord_inputs (s : State) (nbits w : Nat) : (s.withFetchWord nbits w).inputs = s.inputs := rfl

@[simp] theorem startSampler_cfg (s : State) : (startSampler s).cfg = s.cfg := by unfold startSampler; split <;> rfl
@[simp] theorem startSampler_mem (s : State) : (startSampler s).mem = s.mem := by unfold startSampler; split <;> rfl
@[simp] theorem startSampler_tpl (s : State) : (startSampler s).tpl = s.tpl := by unfold startSampler; split <;> rfl
@[simp] theorem startSampler_initLeft (s : State) : (startSampler s).initLeft = s.initLeft := by unfold startSampler; split <;> rfl
@[simp] theorem startSampler_bus (s : State) : (startSampler s).bus = s.bus := by unfold startSampler; split <;> rfl
@[simp] theorem startSampler_ring (s : State) : (startSampler s).ring = s.ring := by unfold startSampler; split <;> rfl
@[simp] theorem startSampler_ridx (s : State) : (startSampler s).ridx = s.ridx := by unfold startSampler; split <;> rfl
@[simp] theorem startSampler_stable (s : State) : (startSampler s).stable = s.stable := by unfold startSampler; split <;> rfl
@[simp] theorem startSampler_changed (s : State) : (startSampler s).changed = s.changed := by unfold startSampler; split <;> rfl
@[simp] theorem startSampler_nchan (s : State) : (startSampler s).nchan = s.nchan := by unfold startSampler; split <;> rfl
@[simp] theorem startSampler_chan (s : State) : (startSampler s).chan = s.chan := by unfold startSampler; split <;> rfl
@[simp] theorem startSampler_hung (s : State) : (startSampler s).hung = s.hung := by unfold startSampler; split <;> rfl
@[simp] theorem startSampler_busDraws (s : State) : (startSampler s).busDraws = s.busDraws := by unfold startSampler; split <;> rfl
@[simp] theorem startSampler_rsp (s : State) : (startSampler s).rsp = s.rsp := by unfold startSampler; split <;> rfl
@[simp] theorem startSampler_rx (s : State) : (startSampler s).rx = s.rx := by unfold startSampler; split <;> rfl
@[simp] theorem startSampler_inputs (s : State) : (startSampler s).inputs = s.inputs := by unfold startSampler; split <;> rfl

@[simp] theorem takeReading_cfg (r : Reading) (s : State) : (takeReading r s).cfg = s.cfg := by unfold takeReading; simp only; split <;> rfl
@[simp] theorem takeReading_mem (r : Reading) (s : State) : (takeReading r s).mem = s.mem := by unfold takeReading; simp only; split <;> rfl
@[simp] theorem takeReading_tpl (r : Reading) (s : State) : (takeReading r s).tpl = s.tpl := by unfold takeReading; simp only; split <;> rfl
@[simp] theorem takeReading_initLeft (r : Reading) (s : State) : (takeReading r s).initLeft = s.initLeft := by unfold takeReading; simp only; split <;> rfl
@[simp] theorem takeReading_bus (r : Reading) (s : State) : (takeReading r s).bus = s.bus := by unfold takeReading; simp only; split <;> rfl
@[simp] theorem takeReading_ring (r : Reading) (s : State) : (takeReading r s).ring = s.ring := by unfold takeReading; simp only; split <;> rfl
@[simp] theorem takeReading_ridx (r : Reading) (s : State) : (takeReading r s).ridx = s.ridx := by unfold takeReading; simp only; split <;> rfl
@[simp] theorem takeReading_stable (r : Reading) (s : State) : (takeReading r s).stable = s.stable := by unfold takeReading; simp only; split <;> rfl
@[simp] theorem takeReading_changed (r : Reading) (s : State) : (takeReading r s).changed = s.changed := by unfold takeReading; simp only; split <;> rfl
@[simp] theorem takeReading_nchan (r : Reading) (s : State) : (takeReading r s).nchan = s.nchan := by unfold takeReading; simp only; split <;> rfl
@[simp] theorem takeReading_running (r : Reading) (s : State) : (takeReading r s).running = s.running := by unfold takeReading; simp only; split <;> rfl
@[simp] theorem takeReading_hung (r : Reading) (s : State) : (takeReading r s).hung = s.hung := by unfold takeReading; simp only; split <;> rfl
@[simp] theorem takeReading_busDraws (r : Reading) (s : State) : (takeReading r s).busDraws = s.busDraws := by unfold takeReading; simp only; split <;> rfl
@[simp] theorem takeReading_rsp (r : Reading) (s : State) : (takeReading r s).rsp = s.rsp := by unfold takeReading; simp only; split <;> rfl
@[simp] theorem takeReading_rx (r : Reading) (s : State) : (takeReading r s).rx = s.rx := by unfold takeReading; simp only; split <;> rfl
@[simp] theorem takeReading_inputs (r : Reading) (s : State) : (takeReading r s).inputs = s.inputs := by unfold takeReading; simp only; split <;> rfl

@[simp] theorem respond_cfg (st : Status) (p : List Byte) (s : State) : (respond st p s).cfg = s.cfg := by unfold respond; split <;> rfl
@[simp] theorem respond_mem (st : Status) (p : List Byte) (s : State) : (respond st p s).mem = s.mem := by unfold respond; split <;> rfl
@[simp] theorem respond_tpl (st : Status) (p : List Byte) (s : State) : (respond st p s).tpl = s.tpl := by unfold respond; split <;> rfl
@[simp] theorem respond_initLeft (st : Status) (p : List Byte) (s : State) : (respond st p s).initLeft = s.initLeft := by unfold respond; split <;> rfl
@[simp] theorem respond_bus (st : Status) (p : List Byte) (s : State) : (respond st p s).bus = s.bus := by unfold respond; split <;> rfl
@[simp] theorem respond_ring (st : Status) (p : List Byte) (s : State) : (respond st p s).ring = s.ring := by unfold respond; split <;> rfl
@[simp] theorem respond_ridx (st : Status) (p : List Byte) (s : State) : (respond st p s).ridx = s.ridx := by unfold respond; split <;> rfl
@[simp] theorem respond_stable (st : Status) (p : List Byte) (s : State) : (respond st p s).stable = s.stable := by unfold respond; split <;> rfl
@[simp] theorem respond_changed (st : Status) (p : List Byte) (s : State) : (respond st p s).changed = s.changed := by unfold respond; split <;> rfl
@[simp] theorem respond_nchan (st : Status) (p : List Byte) (s : State) : (respond st p s).nchan = s.nchan := by unfold respond; split <;> rfl
@[simp] theorem respond_chan (st : Status) (p : List Byte) (s : State) : (respond st p s).chan = s.chan := by unfold respond; split <;> rfl
@[simp] theorem respond_cur (st : Status) (p : List Byte) (s : State) : (respond st p s).cur = s.cur := by unfold respond; split <;> rfl
@[simp] theorem respond_acc (st : Status) (p : List Byte) (s : State) : (respond st p s).acc = s.acc := by unfold respond; split <;> rfl
@[simp] theorem respond_cnt (st : Status) (p : List Byte) (s : State) : (respond st p s).cnt = s.cnt := by unfold respond; split <;> rfl
@[simp] theorem respond_running (st : Status) (p : List Byte) (s : State) : (respond st p s).running = s.running := by unfold respond; split <;> rfl
@[simp] theorem respond_hung (st : Status) (p : List Byte) (s : State) : (respond st p s).hung = s.hung := by unfold respond; split <;> rfl
@[simp] theorem respond_busDraws (st : Status) (p : List Byte) (s : State) : (respond st p s).busDraws = s.busDraws := by unfold respond; split <;> rfl
@[simp] theorem respond_rx (st : Status) (p : List Byte) (s : State) : (respond st p s).rx = s.rx := by unfold respond; split <;> rfl
@[simp] theorem respond_inputs (st : Status) (p : List Byte) (s : State) : (respond st p s).inputs = s.inputs := by unfold respond; split <;> rfl

@[simp] theorem raise_cfg (st : Status) (s : State) : (raise st s).cfg = s.cfg := respond_cfg st [] s
@[simp] theorem raise_mem (st : Status) (s : State) : (raise st s).mem = s.mem := respond_mem st [] s
@[simp] theorem raise_tpl (st : Status) (s : State) : (raise st s).tpl = s.tpl := respond_tpl st [] s
@[simp] theorem raise_initLeft (st : Status) (s : State) : (raise st s).initLeft = s.initLeft := respond_initLeft st [] s
@[simp] theorem raise_bus (st : Status) (s : State) : (raise st s).bus = s.bus := respond_bus st [] s
@[simp] theorem raise_ring (st : Status) (s : State) : (raise st s).ring = s.ring := respond_ring st [] s
@[simp] theorem raise_ridx (st : Status) (s : State) : (raise st s).ridx = s.ridx := respond_ridx st [] s
@[simp] theorem raise_stable (st : Status) (s : State) : (raise st s).stable = s.stable := respond_stable st [] s
@[simp] theorem raise_changed (st : Status) (s : State) : (raise st s).changed = s.changed := respond_changed st [] s
@[simp] theorem raise_nchan (st : Status) (s : State) : (raise st s).nchan = s.nchan := respond_nchan st [] s
@[simp] theorem raise_chan (st : Status) (s : State) : (raise st s).chan = s.chan := respond_chan st [] s
@[simp] theorem raise_cur (st : Status) (s : State) : (raise st s).cur = s.cur := respond_cur st [] s
@[simp] theorem raise_acc (st : Status) (s : State) : (raise st s).acc = s.acc := respond_acc st [] s
@[simp] theorem raise_cnt (st : Status) (s : State) : (raise st s).cnt = s.cnt := respond_cnt st [] s
@[simp] theorem raise_running (st : Status) (s : State) : (raise st s).running = s.running := respond_running st [] s
@[simp] theorem raise_hung (st : Status) (s : State) : (raise st s).hung = s.hung := respond_hung st [] s
@[simp] theorem raise_busDraws (st : Status) (s : State) : (raise st s).busDraws = s.busDraws := respond_busDraws st [] s
@[simp] theorem raise_rx (st : Status) (s : State) : (raise st s).rx = s.rx := respond_rx st [] s
@[simp] theorem raise_inputs (st : Status) (s : State) : (raise st s).inputs = s.inputs := respond_inputs st [] s

@[simp] theorem keyQuery_cfg (view : State → KeyVec) (key : Byte) (s : State) : (keyQuery view key s).cfg = s.cfg := by unfold keyQuery; split <;> simp
@[simp] theorem keyQuery_mem (view : State → KeyVec) (key : Byte) (s : State) : (keyQuery view key s).mem = s.mem := by unfold keyQuery; split <;> simp
@[simp] theorem keyQuery_tpl (view : State → KeyVec) (key : Byte) (s : State) : (keyQuery view key s).tpl = s.tpl := by unfold keyQuery; split <;> simp
@[simp] theorem keyQuery_initLeft (view : State → KeyVec) (key : Byte) (s : State) : (keyQuery view key s).initLeft = s.initLeft := by unfold keyQuery; split <;> simp
@[simp] theorem keyQuery_bus (view : State → KeyVec) (key : Byte) (s : State) : (keyQuery view key s).bus = s.bus := by unfold keyQuery; split <;> simp
@[simp] theorem keyQuery_ring (view : State → KeyVec) (key : Byte) (s : State) : (keyQuery view key s).ring = s.ring := by unfold keyQuery; split <;> simp
@[simp] theorem keyQuery_ridx (view : State → KeyVec) (key : Byte) (s : State) : (keyQuery view key s).ridx = s.ridx := by unfold keyQuery; split <;> simp
@[simp] theorem keyQuery_stable (view : State → KeyVec) (key : Byte) (s : State) : (keyQuery view key s).stable = s.stable := by unfold keyQuery; split <;> simp
@[simp] theorem keyQuery_changed (view : State → KeyVec) (key : Byte) (s : State) : (keyQuery view key s).changed = s.changed := by unfold keyQuery; split <;> simp
@[simp] theorem keyQuery_nchan (view : State → KeyVec) (key : Byte) (s : State) : (keyQuery view key s).nchan = s.nchan := by unfold keyQuery; split <;> simp
@[simp] theorem keyQuery_chan (view : State → KeyVec) (key : Byte) (s : State) : (keyQuery view key s).chan = s.chan := by unfold keyQuery; split <;> simp
@[simp] theorem keyQuery_cur (view : State → KeyVec) (key : Byte) (s : State) : (keyQuery view key s).cur = s.cur := by unfold keyQuery; split <;> simp
@[simp] theorem keyQuery_acc (view : State → KeyVec) (key : Byte) (s : State) : (keyQuery view key s).acc = s.acc := by unfold keyQuery; split <;> simp
@[simp] theorem keyQuery_cnt (view : State → KeyVec) (key : Byte) (s : State) : (keyQuery view key s).cnt = s.cnt := by unfold keyQuery; split <;> simp
@[simp] theorem keyQuery_running (view : State → KeyVec) (key : Byte) (s : State) : (keyQuery view key s).running = s.running := by unfold keyQuery; split <;> simp
@[simp] theorem keyQuery_hung (view : State → KeyVec) (key : Byte) (s : State) : (keyQuery view key s).hung = s.hung := by unfold keyQuery; split <;> simp
@[simp] theorem keyQuery_busDraws (view : State → KeyVec) (key : Byte) (s : State) : (keyQuery view key s).busDraws = s.busDraws := by unfold keyQuery; split <;> simp
@[simp] theorem keyQuery_rx (view : State → KeyVec) (key : Byte) (s : State) : (keyQuery view key s).rx = s.rx := by unfold keyQuery; split <;> simp
@[simp] theorem keyQuery_inputs (view : State → KeyVec) (key : Byte) (s : State) : (keyQuery view key s).inputs = s.inputs := by unfold keyQuery; split <;> simp

@[simp] theorem busEmit_cfg (s : State) (e : BusEvent) : (busEmit s e).cfg = s.cfg := by unfold busEmit; split <;> [rfl; (split <;> rfl)]
@[simp] theorem busEmit_mem (s : State) (e : BusEvent) : (busEmit s e).mem = s.mem := by unfold busEmit; split <;> [rfl; (split <;> rfl)]
@[simp] theorem busEmit_tpl (s : State) (e : BusEvent) : (busEmit s e).tpl = s.tpl := by unfold busEmit; split <;> [rfl; (split <;> rfl)]
@[simp] theorem busEmit_initLeft (s : State) (e : BusEvent) : (busEmit s e).initLeft = s.initLeft := by unfold busEmit; split <;> [rfl; (split <;> rfl)]
@[simp] theorem busEmit_ring (s : State) (e : BusEvent) : (busEmit s e).ring = s.ring := by unfold busEmit; split <;> [rfl; (split <;> rfl)]
@[simp] theorem busEmit_ridx (s : State) (e : BusEvent) : (busEmit s e).ridx = s.ridx := by unfold busEmit; split <;> [rfl; (split <;> rfl)]
@[simp] theorem busEmit_stable (s : State) (e : BusEvent) : (busEmit s e).stable = s.stable := by unfold busEmit; split <;> [rfl; (split <;> rfl)]
@[simp] theorem busEmit_changed (s : State) (e : BusEvent) : (busEmit s e).changed = s.changed := by unfold busEmit; split <;> [rfl; (split <;> rfl)]
@[simp] theorem busEmit_nchan (s : State) (e : BusEvent) : (busEmit s e).nchan = s.nchan := by unfold busEmit; split <;> [rfl; (split <;> rfl)]
@[simp] theorem busEmit_chan (s : State) (e : BusEvent) : (busEmit s e).chan = s.chan := by unfold busEmit; split <;> [rfl; (split <;> rfl)]
@[simp] theorem busEmit_cur (s : State) (e : BusEvent) : (busEmit s e).cur = s.cur := by unfold busEmit; split <;> [rfl; (split <;> rfl)]
@[simp] theorem busEmit_acc (s : State) (e : BusEvent) : (busEmit s e).acc = s.acc := by unfold busEmit; split <;> [rfl; (split <;> rfl)]
@[simp] theorem busEmit_cnt (s : State) (e : BusEvent) : (busEmit s e).cnt = s.cnt := by unfold busEmit; split <;> [rfl; (split <;> rfl)]
@[simp] theorem busEmit_running (s : State) (e : BusEvent) : (busEmit s e).running = s.running := by unfold busEmit; split <;> [rfl; (split <;> rfl)]
@[simp] theorem busEmit_rsp (s : State) (e : BusEvent) : (busEmit s e).rsp = s.rsp := by unfold busEmit; split <;> [rfl; (split <;> rfl)]
@[simp] theorem busEmit_rx (s : State) (e : BusEvent) : (busEmit s e).rx = s.rx := by unfold busEmit; split <;> [rfl; (split <;> rfl)]
@[simp] theorem busEmit_inputs (s : State) (e : BusEvent) : (busEmit s e).inputs = s.inputs := by unfold busEmit; split <;> [rfl; (split <;> rfl)]

@[simp] theorem busEmitAll_cfg (es : List BusEvent) (s : State) : (busEmitAll es s).cfg = s.cfg := by
  unfold busEmitAll
  induction es generalizing s with
  | nil => rfl
  | cons e es ih => simp [ih]
@[simp] theorem busEmitAll_mem (es : List BusEvent) (s : State) : (busEmitAll es s).mem = s.mem := by
  unfold busEmitAll
  induction es generalizing s with
  | nil => rfl
  | cons e es ih => simp [ih]
@[simp] theorem busEmitAll_tpl (es : List BusEvent) (s : State) : (busEmitAll es s).tpl = s.tpl := by
  unfold busEmitAll
  induction es generalizing s with
  | nil => rfl
  | cons e es ih => simp [ih]
@[simp] theorem busEmitAll_initLeft (es : List BusEvent) (s : State) : (busEmitAll es s).initLeft = s.initLeft := by
  unfold busEmitAll
  induction es generalizing s with
  | nil => rfl
  | cons e es ih => simp [ih]
@[simp] theorem busEmitAll_ring (es : List BusEvent) (s : State) : (busEmitAll es s).ring = s.ring := by
  unfold busEmitAll
  induction es generalizing s with
  | nil => rfl
  | cons e es ih => simp [ih]
@[simp] theorem busEmitAll_ridx (es : List BusEvent) (s : State) : (busEmitAll es s).ridx = s.ridx := by
  unfold busEmitAll
  induction es generalizing s with
  | nil => rfl
  | cons e es ih => simp [ih]
@[simp] theorem busEmitAll_stable (es : List BusEvent) (s : State) : (busEmitAll es s).stable = s.stable := by
  unfold busEmitAll
  induction es generalizing s with
  | nil => rfl
  | cons e es ih => simp [ih]
@[simp] theorem busEmitAll_changed (es : List BusEvent) (s : State) : (busEmitAll es s).changed = s.changed := by
  unfold busEmitAll
  induction es generalizing s with
  | nil => rfl
  | cons e es ih => simp [ih]
@[simp] theorem busEmitAll_nchan (es : List BusEvent) (s : State) : (busEmitAll es s).nchan = s.nchan := by
  unfold busEmitAll
  induction es generalizing s with
  | nil => rfl
  | cons e es ih => simp [ih]
@[simp] theorem busEmitAll_chan (es : List BusEvent) (s : State) : (busEmitAll es s).chan = s.chan := by
  unfold busEmitAll
  induction es generalizing s with
  | nil => rfl
  | cons e es ih => simp [ih]
@[simp] theorem busEmitAll_cur (es : List BusEvent) (s : State) : (busEmitAll es s).cur = s.cur := by
  unfold busEmitAll
  induction es generalizing s with
  | nil => rfl
  | cons e es ih => simp [ih]
@[simp] theorem busEmitAll_acc (es : List BusEvent) (s : State) : (busEmitAll es s).acc = s.acc := by
  unfold busEmitAll
  induction es generalizing s with
  | nil => rfl
  | cons e es ih => simp [ih]
@[simp] theorem busEmitAll_cnt (es : List BusEvent) (s : State) : (busEmitAll es s).cnt = s.cnt := by
  unfold busEmitAll
  induction es generalizing s with
  | nil => rfl
  | cons e es ih => simp [ih]
@[simp] theorem busEmitAll_running (es : List BusEvent) (s : State) : (busEmitAll es s).running = s.running := by
  unfold busEmitAll
  induction es generalizing s with
  | nil => rfl
  | cons e es ih => simp [ih]
@[simp] theorem busEmitAll_rsp (es : List BusEvent) (s : State) : (busEmitAll es s).rsp = s.rsp := by
  unfold busEmitAll
  induction es generalizing s with
  | nil => rfl
  | cons e es ih => simp [ih]
@[simp] theorem busEmitAll_rx (es : List BusEvent) (s : State) : (busEmitAll es s).rx = s.rx := by
  unfold busEmitAll
  induction es generalizing s with
  | nil => rfl
  | cons e es ih => simp [ih]
@[simp] theorem busEmitAll_inputs (es : List BusEvent) (s : State) : (busEmitAll es s).inputs = s.inputs := by
  unfold busEmitAll
  induction es generalizing s with
  | nil => rfl
  | cons e es ih => simp [ih]

@[simp] theorem sendFrame_cfg (F : FrameWord) (s : State) : (sendFrame F s).cfg = s.cfg := busEmitAll_cfg _ s
@[simp] theorem sendFrame_mem (F : FrameWord) (s : State) : (sendFrame F s).mem = s.mem := busEmitAll_mem _ s
@[simp] theorem sendFrame_tpl (F : FrameWord) (s : State) : (sendFrame F s).tpl = s.tpl := busEmitAll_tpl _ s
@[simp] theorem sendFrame_initLeft (F : FrameWord) (s : State) : (sendFrame F s).initLeft = s.initLeft := busEmitAll_initLeft _ s
@[simp] theorem sendFrame_ring (F : FrameWord) (s : State) : (sendFrame F s).ring = s.ring := busEmitAll_ring _ s
@[simp] theorem sendFrame_ridx (F : FrameWord) (s : State) : (sendFrame F s).ridx = s.ridx := busEmitAll_ridx _ s
@[simp] theorem sendFrame_stable (F : FrameWord) (s : State) : (sendFrame F s).stable = s.stable := busEmitAll_stable _ s
@[simp] theorem sendFrame_changed (F : FrameWord) (s : State) : (sendFrame F s).changed = s.changed := busEmitAll_changed _ s
@[simp] theorem sendFrame_nchan (F : FrameWord) (s : State) : (sendFrame F s).nchan = s.nchan := busEmitAll_nchan _ s
@[simp] theorem sendFrame_chan (F : FrameWord) (s : State) : (sendFrame F s).chan = s.chan := busEmitAll_chan _ s
@[simp] theorem sendFrame_cur (F : FrameWord) (s : State) : (sendFrame F s).cur = s.cur := busEmitAll_cur _ s
@[simp] theorem sendFrame_acc (F : FrameWord) (s : State) : (sendFrame F s).acc = s.acc := busEmitAll_acc _ s
@[simp] theorem sendFrame_cnt (F : FrameWord) (s : State) : (sendFrame F s).cnt = s.cnt := busEmitAll_cnt _ s
@[simp] theorem sendFrame_running (F : FrameWord) (s : State) : (sendFrame F s).running = s.running := busEmitAll_running _ s
@[simp] theorem sendFrame_rsp (F : FrameWord) (s : State) : (sendFrame F s).rsp = s.rsp := busEmitAll_rsp _ s
@[simp] theorem sendFrame_rx (F : FrameWord) (s : State) : (sendFrame F s).rx = s.rx := busEmitAll_rx _ s
@[simp] theorem sendFrame_inputs (F : FrameWord) (s : State) : (sendFrame F s).inputs = s.inputs := busEmitAll_inputs _ s

@[simp] theorem countFrame_cfg (s : State) : (countFrame s).cfg = s.cfg := by unfold countFrame; split <;> [rfl; (split <;> rfl)]
@[simp] theorem countFrame_mem (s : State) : (countFrame s).mem = s.mem := by unfold countFrame; split <;> [rfl; (split <;> rfl)]
@[simp] theorem countFrame_tpl (s : State) : (countFrame s).tpl = s.tpl := by unfold countFrame; split <;> [rfl; (split <;> rfl)]
@[simp] theorem countFrame_bus (s : State) : (countFrame s).bus = s.bus := by unfold countFrame; split <;> [rfl; (split <;> rfl)]
@[simp] theorem countFrame_ring (s : State) : (countFrame s).ring = s.ring := by unfold countFrame; split <;> [rfl; (split <;> rfl)]
@[simp] theorem countFrame_ridx (s : State) : (countFrame s).ridx = s.ridx := by unfold countFrame; split <;> [rfl; (split <;> rfl)]
@[simp] theorem countFrame_stable (s : State) : (countFrame s).stable = s.stable := by unfold countFrame; split <;> [rfl; (split <;> rfl)]
@[simp] theorem countFrame_changed (s : State) : (countFrame s).changed = s.changed := by unfold countFrame; split <;> [rfl; (split <;> rfl)]
@[simp] theorem countFrame_nchan (s : State) : (countFrame s).nchan = s.nchan := by unfold countFrame; split <;> [rfl; (split <;> rfl)]
@[simp] theorem countFrame_chan (s : State) : (countFrame s).chan = s.chan := by unfold countFrame; split <;> [rfl; (split <;> rfl)]
@[simp] theorem countFrame_cur (s : State) : (countFrame s).cur = s.cur := by unfold countFrame; split <;> [rfl; (split <;> rfl)]
@[simp] theorem countFrame_acc (s : State) : (countFrame s).acc = s.acc := by unfold countFrame; split <;> [rfl; (split <;> rfl)]
@[simp] theorem countFrame_cnt (s : State) : (countFrame s).cnt = s.cnt := by unfold countFrame; split <;> [rfl; (split <;> rfl)]
@[simp] theorem countFrame_running (s : State) : (countFrame s).running = s.running := by unfold countFrame; split <;> [rfl; (split <;> rfl)]
@[simp] theorem countFrame_hung (s : State) : (countFrame s).hung = s.hung := by unfold countFrame; split <;> [rfl; (split <;> rfl)]
@[simp] theorem countFrame_busDraws (s : State) : (countFrame s).busDraws = s.busDraws := by unfold countFrame; split <;> [rfl; (split <;> rfl)]
@[simp] theorem countFrame_rsp (s : State) : (countFrame s).rsp = s.rsp := by unfold countFrame; split <;> [rfl; (split <;> rfl)]
@[simp] theorem countFrame_rx (s : State) : (countFrame s).rx = s.rx := by unfold countFrame; split <;> [rfl; (split <;> rfl)]
@[simp] theorem countFrame_inputs (s : State) : (countFrame s).inputs = s.inputs := by unfold countFrame; split <;> [rfl; (split <;> rfl)]

@[simp] theorem emitFrame_cfg (s : State) (i : Nat) : (emitFrame s i).cfg = s.cfg := by simp [emitFrame]
@[simp] theorem emitFrame_mem (s : State) (i : Nat) : (emitFrame s i).mem = s.mem := by simp [emitFrame]
@[simp] theorem emitFrame_tpl (s : State) (i : Nat) : (emitFrame s i).tpl = s.tpl := by simp [emitFrame]
@[simp] theorem emitFrame_ring (s : State) (i : Nat) : (emitFrame s i).ring = s.ring := by simp [emitFrame]
@[simp] theorem emitFrame_ridx (s : State) (i : Nat) : (emitFrame s i).ridx = s.ridx := by simp [emitFrame]
@[simp] theorem emitFrame_stable (s : State) (i : Nat) : (emitFrame s i).stable = s.stable := by simp [emitFrame]
@[simp] theorem emitFrame_changed (s : State) (i : Nat) : (emitFrame s i).changed = s.changed := by simp [emitFrame]
@[simp] theorem emitFrame_nchan (s : State) (i : Nat) : (emitFrame s i).nchan = s.nchan := by simp [emitFrame]
@[simp] theorem emitFrame_chan (s : State) (i : Nat) : (emitFrame s i).chan = s.chan := by simp [emitFrame]
@[simp] theorem emitFrame_cur (s : State) (i : Nat) : (emitFrame s i).cur = s.cur := by simp [emitFrame]
@[simp] theorem emitFrame_acc (s : State) (i : Nat) : (emitFrame s i).acc = s.acc := by simp [emitFrame]
@[simp] theorem emitFrame_cnt (s : State) (i : Nat) : (emitFrame s i).cnt = s.cnt := by simp [emitFrame]
@[simp] theorem emitFrame_running (s : State) (i : Nat) : (emitFrame s i).running = s.running := by simp [emitFrame]
@[simp] theorem emitFrame_rsp (s : State) (i : Nat) : (emitFrame s i).rsp = s.rsp := by simp [emitFrame]
@[simp] theorem emitFrame_rx (s : State) (i : Nat) : (emitFrame s i).rx = s.rx := by simp [emitFrame]
@[simp] theorem emitFrame_inputs (s : State) (i : Nat) : (emitFrame s i).inputs = s.inputs := by simp [emitFrame]

@[simp] theorem emitFrames_cfg (n : Nat) (s : State) : (emitFrames n s).cfg = s.cfg := by
  unfold emitFrames
  induction n with
  | zero => rfl
  | succ n ih => simp [List.range_succ, ih]
@[simp] theorem emitFrames_mem (n : Nat) (s : State) : (emitFrames n s).mem = s.mem := by
  unfold emitFrames
  induction n with
  | zero => rfl
  | succ n ih => simp [List.range_succ, ih]
@[simp] theorem emitFrames_tpl (n : Nat) (s : State) : (emitFrames n s).tpl = s.tpl := by
  unfold emitFrames
  induction n with
  | zero => rfl
  | succ n ih => simp [List.range_succ, ih]
@[simp] theorem emitFrames_ring (n : Nat) (s : State) : (emitFrames n s).ring = s.ring := by
  unfold emitFrames
  induction n with
  | zero => rfl
  | succ n ih => simp [List.range_succ, ih]
@[simp] theorem emitFrames_ridx (n : Nat) (s : State) : (emitFrames n s).ridx = s.ridx := by
  unfold emitFrames
  induction n with
  | zero => rfl
  | succ n ih => simp [List.range_succ, ih]
@[simp] theorem emitFrames_stable (n : Nat) (s : State) : (emitFrames n s).stable = s.stable := by
  unfold emitFrames
  induction n with
  | zero => rfl
  | succ n ih => simp [List.range_succ, ih]
@[simp] theorem emitFrames_changed (n : Nat) (s : State) : (emitFrames n s).changed = s.changed := by
  unfold emitFrames
  induction n with
  | zero => rfl
  | succ n ih => simp [List.range_succ, ih]
@[simp] theorem emitFrames_nchan (n : Nat) (s : State) : (emitFrames n s).nchan = s.nchan := by
  unfold emitFrames
  induction n with
  | zero => rfl
  | succ n ih => simp [List.range_succ, ih]
@[simp] theorem emitFrames_chan (n : Nat) (s : State) : (emitFrames n s).chan = s.chan := by
  unfold emitFrames
  induction n with
  | zero => rfl
  | succ n ih => simp [List.range_succ, ih]
@[simp] theorem emitFrames_cur (n : Nat) (s : State) : (emitFrames n s).cur = s.cur := by
  unfold emitFrames
  induction n with
  | zero => rfl
  | succ n ih => simp [List.range_succ, ih]
@[simp] theorem emitFrames_acc (n : Nat) (s : State) : (emitFrames n s).acc = s.acc := by
  unfold emitFrames
  induction n with
  | zero => rfl
  | succ n ih => simp [List.range_succ, ih]
@[simp] theorem emitFrames_cnt (n : Nat) (s : State) : (emitFrames n s).cnt = s.cnt := by
  unfold emitFrames
  induction n with
  | zero => rfl
  | succ n ih => simp [List.range_succ, ih]
@[simp] theorem emitFrames_running (n : Nat) (s : State) : (emitFrames n s).running = s.running := by
  unfold emitFrames
  induction n with
  | zero => rfl
  | succ n ih => simp [List.range_succ, ih]
@[simp] theorem emitFrames_rsp (n : Nat) (s : State) : (emitFrames n s).rsp = s.rsp := by
  unfold emitFrames
  induction n with
  | zero => rfl
  | succ n ih => simp [List.range_succ, ih]
@[simp] theorem emitFrames_rx (n : Nat) (s : State) : (emitFrames n s).rx = s.rx := by
  unfold emitFrames
  induction n with
  | zero => rfl
  | succ n ih => simp [List.range_succ, ih]
@[simp] theorem emitFrames_inputs (n : Nat) (s : State) : (emitFrames n s).inputs = s.inputs := by
  unfold emitFrames
  induction n with
  | zero => rfl
  | succ n ih => simp [List.range_succ, ih]

@[simp] theorem encodeAndSend_cfg (s : State) : (encodeAndSend s).cfg = s.cfg := emitFrames_cfg _ s
@[simp] theorem encodeAndSend_mem (s : State) : (encodeAndSend s).mem = s.mem := emitFrames_mem _ s
@[simp] theorem encodeAndSend_tpl (s : State) : (encodeAndSend s).tpl = s.tpl := emitFrames_tpl _ s
@[simp] theorem encodeAndSend_ring (s : State) : (encodeAndSend s).ring = s.ring := emitFrames_ring _ s
@[simp] theorem encodeAndSend_ridx (s : State) : (encodeAndSend s).ridx = s.ridx := emitFrames_ridx _ s
@[simp] theorem encodeAndSend_stable (s : State) : (encodeAndSend s).stable = s.stable := emitFrames_stable _ s
@[simp] theorem encodeAndSend_changed (s : State) : (encodeAndSend s).changed = s.changed := emitFrames_changed _ s
@[simp] theorem encodeAndSend_nchan (s : State) : (encodeAndSend s).nchan = s.nchan := emitFrames_nchan _ s
@[simp] theorem encodeAndSend_chan (s : State) : (encodeAndSend s).chan = s.chan := emitFrames_chan _ s
@[simp] theorem encodeAndSend_cur (s : State) : (encodeAndSend s).cur = s.cur := emitFrames_cur _ s
@[simp] theorem encodeAndSend_acc (s : State) : (encodeAndSend s).acc = s.acc := emitFrames_acc _ s
@[simp] theorem encodeAndSend_cnt (s : State) : (encodeAndSend s).cnt = s.cnt := emitFrames_cnt _ s
@[simp] theorem encodeAndSend_running (s : State) : (encodeAndSend s).running = s.running := emitFrames_running _ s
@[simp] theorem encodeAndSend_rsp (s : State) : (encodeAndSend s).rsp = s.rsp := emitFrames_rsp _ s
@[simp] theorem encodeAndSend_rx (s : State) : (encodeAndSend s).rx = s.rx := emitFrames_rx _ s
@[simp] theorem encodeAndSend_inputs (s : State) : (encodeAndSend s).inputs = s.inputs := emitFrames_inputs _ s

end Sys2Proof.Machine
end

