-- ==== Sys2Proof/Laws/Ops.lean ====
section
/-! SUPPORT. What each shared operation can do, said once: DisplayMemory, the serial bus and the
frames, commands and responses, the debouncer's window, the classifier and the payload bytes. -/

namespace Sys2Proof.Machine

/-! ### Commands and responses -/

theorem command_of_not_hung {body : State → State} {s : State} (h : s.hung = false) :
    command body s = .next (body s) := by simp [command, h]

theorem command_of_hung {body : State → State} {s : State} (h : s.hung = true) :
    command body s = .next s := by simp [command, h]

theorem event_eq (body : State → State) (s : State) : event body s = .next (body s) := rfl

theorem respond_of_not_hung {st : Status} {p : List Byte} {s : State} (h : s.hung = false) :
    respond st p s = answered st p s := by simp [respond, answered, h]

theorem respond_of_hung {st : Status} {p : List Byte} {s : State} (h : s.hung = true) :
    respond st p s = s := by simp [respond, h]

theorem raise_of_not_hung {st : Status} {s : State} (h : s.hung = false) :
    raise st s = answered st [] s := respond_of_not_hung h

/-- What a key query can do (41_debounce.md R175 to R177). -/
theorem keyQuery_of_not_hung {view : State → KeyVec} {key : Byte} {s : State} (h : s.hung = false) :
    keyQuery view key s =
      if key.toNat < s.cfg.kw then answered .ok [boolByte ((view s).testBit key.toNat)] s
      else answered .cfgErr [] s := by
  simp [keyQuery, respond_of_not_hung h, raise_of_not_hung h]

/-! ### DisplayMemory -/

theorem setBitOf_getLsbD (w : BitVec 64) (i j : Nat) (b : Bool) (hi : i < 64) :
    (setBitOf w i b).getLsbD j = if j = i then b else w.getLsbD j := by
  unfold setBitOf
  by_cases hj : j < 64
  · cases b <;> by_cases h : j = i <;>
      simp [hj, h] <;> omega
  · rw [BitVec.getLsbD_of_ge _ _ (by omega), if_neg (by omega), BitVec.getLsbD_of_ge _ _ (by omega)]

@[simp] theorem DisplayMemory.word_setWord (m : DisplayMemory) (i j : Nat) (v : BitVec 64) :
    (m.setWord i v).word j = if j = i ∧ i < 3 then v else m.word j := by
  match i, j with
  | 0, 0 | 0, 1 | 0, 2 | 0, _ + 3 => simp [setWord, word]
  | 1, 0 | 1, 1 | 1, 2 | 1, _ + 3 => simp [setWord, word]
  | 2, 0 | 2, 1 | 2, 2 | 2, _ + 3 => simp [setWord, word]
  | i + 3, j =>
    have h : ¬ i + 3 < 3 := by omega
    simp [setWord, h]

/-- A write of one bit: that bit takes the value, every other keeps its own (00_scope.md R12). -/
theorem DisplayMemory.bit_setBit (m : DisplayMemory) (L K : Nat) (b : Bool) (h : L < 192) :
    (m.setBit L b).bit K = if K = L then b else m.bit K := by
  have hw : L / 64 < 3 := by omega
  by_cases hd : K / 64 = L / 64
  · simp only [bit, setBit, word_setWord, hd, hw, and_self, if_true]
    rw [setBitOf_getLsbD _ _ _ _ (by omega)]
    have : (K % 64 = L % 64) ↔ K = L := by omega
    simp [this]
  · have : K ≠ L := by rintro rfl; exact hd rfl
    simp [bit, setBit, hd, this]

@[simp] theorem DisplayMemory.bit_zero (L : Nat) : (DisplayMemory.mk 0#64 0#64 0#64).bit L = false := by
  unfold bit word
  split <;> simp

theorem DisplayMemory.bit_of_ge (m : DisplayMemory) (L : Nat) (h : 192 ≤ L) : m.bit L = false := by
  obtain ⟨k, hk⟩ : ∃ k, L / 64 = k + 3 := ⟨L / 64 - 3, by omega⟩
  simp [bit, hk, word]

theorem DisplayMemory.flat_getLsbD (m : DisplayMemory) (L : Nat) : m.flat.getLsbD L = m.bit L := by
  by_cases h : L < 192
  · unfold flat
    rw [BitVec.getLsbD_append, BitVec.getLsbD_append]
    by_cases h0 : L < 64
    · have hd : L / 64 = 0 := by omega
      have hm : L % 64 = L := by omega
      have h1 : L < 128 := by omega
      simp [bit, hd, hm, word, h0, h1]
    · by_cases h1 : L < 128
      · have hd : L / 64 = 1 := by omega
        have hm : L % 64 = L - 64 := by omega
        simp [bit, hd, hm, word, h0, h1]
      · have hd : L / 64 = 2 := by omega
        have hm : L % 64 = L - 128 := by omega
        simp [bit, hd, hm, word, h1]
  · rw [BitVec.getLsbD_of_ge _ _ (by omega), bit_of_ge m L (by omega)]

/-- MemRead(L, n): bit j of the value is M[L + j] (00_scope.md R12). -/
theorem DisplayMemory.read_getLsbD (m : DisplayMemory) (L n j : Nat) :
    (m.read L n).getLsbD j = (decide (j < n) && m.bit (L + j)) := by
  simp [read, flat_getLsbD]

/-- Two memories with the same bits are the same. -/
theorem DisplayMemory.ext_bit {m m' : DisplayMemory} (h : ∀ L, L < 192 → m.bit L = m'.bit L) : m = m' := by
  obtain ⟨a0, a1, a2⟩ := m
  obtain ⟨b0, b1, b2⟩ := m'
  have key : ∀ k, k < 64 → a0.getLsbD k = b0.getLsbD k ∧ a1.getLsbD k = b1.getLsbD k ∧
      a2.getLsbD k = b2.getLsbD k := by
    intro k hk
    refine ⟨?_, ?_, ?_⟩
    · have := h k (by omega)
      have hd : k / 64 = 0 := by omega
      have hm : k % 64 = k := by omega
      simpa [bit, hd, hm, word] using this
    · have := h (64 + k) (by omega)
      have hd : (64 + k) / 64 = 1 := by omega
      have hm : (64 + k) % 64 = k := by omega
      simpa [bit, hd, hm, word] using this
    · have := h (128 + k) (by omega)
      have hd : (128 + k) / 64 = 2 := by omega
      have hm : (128 + k) % 64 = k := by omega
      simpa [bit, hd, hm, word] using this
  congr 1
  · exact BitVec.eq_of_getLsbD_eq fun k hk => (key k hk).1
  · exact BitVec.eq_of_getLsbD_eq fun k hk => (key k hk).2.1
  · exact BitVec.eq_of_getLsbD_eq fun k hk => (key k hk).2.2

/-- The linear index of a stored address is the address (30_encoding.md R111). -/
theorem linearIndex_eq_toNat (a : SegmentAddress) : linearIndex a = a.toNat := by
  have := a.isLt
  simp only [linearIndex, wordIndex, bitIndex, BitVec.extractLsb'_toNat, Nat.shiftRight_eq_div_pow]
  omega

/-- Writing bits at a list of distinct addresses: each takes its value, all else is kept. -/
theorem bit_foldl_setBit (f : Nat → Nat) (v : Nat → Bool) (is : List Nat) (m : DisplayMemory)
    (hlt : ∀ i ∈ is, f i < 192) (hinj : ∀ i ∈ is, ∀ j ∈ is, f i = f j → i = j) :
    (∀ i ∈ is, (is.foldl (fun m i => m.setBit (f i) (v i)) m).bit (f i) = v i) ∧
    (∀ L, (∀ i ∈ is, L ≠ f i) → (is.foldl (fun m i => m.setBit (f i) (v i)) m).bit L = m.bit L) := by
  induction is generalizing m with
  | nil => simp
  | cons a is ih =>
    have ih' := ih (m.setBit (f a) (v a)) (fun i hi => hlt i (by simp [hi]))
      (fun i hi j hj => hinj i (by simp [hi]) j (by simp [hj]))
    have ha := hlt a (by simp)
    refine ⟨?_, ?_⟩
    · intro i hi
      by_cases hmem : i ∈ is
      · exact ih'.1 i hmem
      · have hia : i = a := by simpa [hmem] using hi
        subst hia
        simp only [List.foldl_cons]
        rw [ih'.2 (f i) (fun j hj e => hmem (hinj i (by simp) j (by simp [hj]) e ▸ hj)),
          DisplayMemory.bit_setBit _ _ _ _ ha]
        simp
    · intro L hL
      simp only [List.foldl_cons]
      rw [ih'.2 L (fun i hi => hL i (by simp [hi])), DisplayMemory.bit_setBit _ _ _ _ ha,
        if_neg (hL a (by simp))]

theorem nodup_of_distinctAddrs {as : List SegmentAddress} (h : distinctAddrs as = true) : as.Nodup := by
  induction as with
  | nil => simp
  | cons a as ih => simp_all [distinctAddrs]

/-- What a well-formed configuration says of CHAR_MAP: addresses inside DisplayMemory, and distinct
within a position (00_scope.md R8 (d), (e)). -/
theorem charAddr_spec {c : Config} (h : c.wf = true) {pos : Nat} (hp : pos ≤ 7) :
    (∀ i, i < 14 → linearIndex (charAddr c pos i) < 192) ∧
    (∀ i j, i < 14 → j < 14 → linearIndex (charAddr c pos i) = linearIndex (charAddr c pos j) → i = j) := by
  simp only [Config.wf, Config.wfSegments, Bool.and_eq_true, List.all_eq_true, decide_eq_true_eq] at h
  obtain ⟨⟨⟨⟨_, ⟨⟨hlen, hrows⟩, _⟩, _⟩, _⟩, _⟩, _⟩ := h
  simp only [Param.numPos] at hlen
  have hlt : pos < c.charMap.length := by omega
  have hrow := hrows c.charMap[pos] (List.getElem_mem hlt)
  obtain ⟨⟨h14, hwf⟩, hd⟩ := hrow
  simp only [Param.segsPerPos] at h14
  have e : ∀ i (hi : i < 14), charAddr c pos i = c.charMap[pos][i]'(by omega) := by
    intro i hi
    simp [charAddr, List.getD_eq_getElem?_getD, hlt, h14, hi]
  refine ⟨?_, ?_⟩
  · intro i hi
    rw [linearIndex_eq_toNat, e i hi]
    simpa [SegmentAddress.wf] using hwf _ (List.getElem_mem _)
  · intro i j hi hj hij
    rw [linearIndex_eq_toNat, linearIndex_eq_toNat, e i hi, e j hj] at hij
    exact (nodup_of_distinctAddrs hd).getElem_inj_iff.mp (BitVec.eq_of_toNat_eq hij)

/-- An icon's address is inside DisplayMemory (R8 (d)). -/
theorem iconAddr_lt {c : Config} (h : c.wf = true) {sym : Nat} (hs : sym < c.numIcons) :
    linearIndex (iconAddr c sym) < 192 := by
  simp only [Config.wf, Config.wfSegments, Bool.and_eq_true, List.all_eq_true, decide_eq_true_eq] at h
  obtain ⟨⟨⟨⟨_, ⟨_, hicons⟩, _⟩, _⟩, _⟩, _⟩ := h
  have hlt : sym < c.iconMap.length := hs
  have := hicons _ (List.getElem_mem hlt)
  rw [linearIndex_eq_toNat]
  simpa [iconAddr, List.getD_eq_getElem?_getD, hlt, SegmentAddress.wf] using this

/-- render_char: the 14 segment bits of the position follow the mask, every other bit is kept
(40_display.md R138). -/
theorem renderChar_bit {c : Config} (h : c.wf = true) (chr : Byte) {pos : Nat} (hp : pos ≤ 7) (m : DisplayMemory) :
    (∀ i, i < 14 → (renderChar c chr pos m).bit (linearIndex (charAddr c pos i)) = (fontMask c chr).getLsbD i) ∧
    (∀ L, (∀ i, i < 14 → L ≠ linearIndex (charAddr c pos i)) → (renderChar c chr pos m).bit L = m.bit L) := by
  obtain ⟨hlt, hinj⟩ := charAddr_spec h hp
  have key := bit_foldl_setBit (fun i => linearIndex (charAddr c pos i)) (fun i => (fontMask c chr).getLsbD i)
    (List.range 14) m (fun i hi => hlt i (by simpa using hi))
    (fun i hi j hj => hinj i j (by simpa using hi) (by simpa using hj))
  refine ⟨fun i hi => key.1 i (by simpa using hi), fun L hL => key.2 L (fun i hi => hL i (by simpa using hi))⟩

/-- Bit k of chunk i (20_memory.md R62). -/
theorem chunk_getLsbD (c : Config) (m : DisplayMemory) (i k : Nat) (hk : k < 52) :
    (chunk c m i).getLsbD k = (decide (i < c.numChunks) && m.bit (52 * i + k)) := by
  unfold chunk
  split
  · rename_i h
    simp only [DisplayMemory.read_getLsbD, hk, h]
  · rename_i h
    simp [h]

/-- SEGMENT_COUNT = 52 NUM_CHUNKS, and one to three chunks (00_scope.md R8, R9). -/
theorem numChunks_spec {c : Config} (h : c.wf = true) :
    c.segmentCount = 52 * c.numChunks ∧ 1 ≤ c.numChunks ∧ c.numChunks ≤ 3 := by
  simp only [Config.wf, Config.wfChunks, Bool.and_eq_true, decide_eq_true_eq, Config.numChunks, Param.chunkBits,
    Param.memBits, Param.ddBits] at h ⊢
  omega

/-! ### Frames -/

@[simp] theorem frameEvents_length (c : Config) (F : FrameWord) : (frameEvents c F).length = eventsPerFrame := by
  simp [frameEvents, frameBytes, eventsPerFrame]

@[simp] theorem traceOf_nil (c : Config) : traceOf c [] = [] := rfl

@[simp] theorem traceOf_append (c : Config) (Fs Gs : List FrameWord) :
    traceOf c (Fs ++ Gs) = traceOf c Fs ++ traceOf c Gs := by simp [traceOf]

@[simp] theorem traceOf_singleton (c : Config) (F : FrameWord) : traceOf c [F] = frameEvents c F := by
  simp [traceOf]

@[simp] theorem traceOf_length (c : Config) (Fs : List FrameWord) :
    (traceOf c Fs).length = eventsPerFrame * Fs.length := by
  induction Fs with
  | nil => simp
  | cons F Fs ih =>
    have : traceOf c (F :: Fs) = frameEvents c F ++ traceOf c Fs := by simp [traceOf]
    rw [this, List.length_append, ih, frameEvents_length, List.length_cons]
    ring

@[simp] theorem framesOf_length (n : Nat) (s : State) : (framesOf n s).length = n := by simp [framesOf]

theorem framesOf_succ (n : Nat) (s : State) :
    framesOf (n + 1) s = framesOf n s ++ [packFrame (chunk s.cfg s.mem n) s.tpl (drOfFrame s n) n] := by
  simp [framesOf, List.range_succ]

/-! ### The serial bus -/

theorem busEmitAll_hung {es : List BusEvent} {s : State} (h : s.hung = true) : busEmitAll es s = s := by
  unfold busEmitAll
  induction es with
  | nil => rfl
  | cons e es ih => simpa [busEmit, h] using ih

theorem emitFrame_hung {i : Nat} {s : State} (h : s.hung = true) : emitFrame s i = s := by
  simp [emitFrame, sendFrame, busEmitAll_hung h, countFrame, h]

/-- Without a hang the events are all driven, in order (00_scope.md R14). -/
theorem busEmitAll_of_noHang {es : List BusEvent} {s : State} (h : s.hung = false)
    (hm : s.cfg.busMayHang = false) : busEmitAll es s = { s with bus := s.bus ++ es } := by
  unfold busEmitAll
  induction es generalizing s with
  | nil => simp
  | cons e es ih =>
    simp only [List.foldl_cons, busEmit, h, hm, Bool.false_eq_true, if_false]
    rw [ih (s := { s with bus := s.bus ++ [e], hung := false }) rfl hm]
    simp

theorem initLeftAfter_bne (s : State) (n : Nat) :
    (initLeftAfter n s != 0#3) = decide (n < s.initLeft.toNat) := by
  have := s.initLeft.isLt
  rw [Bool.eq_iff_iff]
  simp only [initLeftAfter, bne_iff_ne, ne_eq, decide_eq_true_eq, ← BitVec.toNat_inj, BitVec.toNat_ofNat]
  simp
  omega

theorem initLeftAfter_succ (s : State) (n : Nat) :
    (if n < s.initLeft.toNat then initLeftAfter n s - 1#3 else initLeftAfter n s) = initLeftAfter (n + 1) s := by
  have := s.initLeft.isLt
  split <;> (simp only [initLeftAfter, ← BitVec.toNat_inj, BitVec.toNat_sub, BitVec.toNat_ofNat]; simp; omega)

@[simp] theorem initLeftAfter_zero (s : State) : initLeftAfter 0 s = s.initLeft := by
  simp [initLeftAfter]

/-- The frame that `emit_frame(n)` sends after `n` frames is the n-th frame of the closed form. -/
theorem frameWord_sentFrames (n : Nat) (s : State) :
    frameWord (sentFrames n s) n = packFrame (chunk s.cfg s.mem n) s.tpl (drOfFrame s n) n := by
  simp [frameWord, drOfFrame, initLeftAfter_bne]

/-- emit_frame(0), …, emit_frame(n-1) without a hang: the closed form of the frames, and init_left
counted down (40_display.md R132, R133). -/
theorem emitFrames_of_noHang (n : Nat) {s : State} (h : s.hung = false) (hm : s.cfg.busMayHang = false) :
    emitFrames n s = sentFrames n s := by
  unfold emitFrames
  induction n with
  | zero => simp [sentFrames, framesOf]
  | succ n ih =>
    rw [List.range_succ, List.foldl_append, ih]
    simp only [List.foldl_cons, List.foldl_nil, emitFrame, sendFrame, frameWord_sentFrames]
    rw [busEmitAll_of_noHang (by simpa using h) (by simpa using hm)]
    simp only [countFrame, sentFrames_hung, h, sentFrames_initLeft, initLeftAfter_bne]
    have := initLeftAfter_succ s n
    by_cases hn : n < s.initLeft.toNat
    · simp only [hn, if_true] at this
      simp [hn, sentFrames, framesOf_succ, this, h]
    · simp only [hn, if_false] at this
      simp [hn, sentFrames, framesOf_succ, this, h]

theorem encodeAndSend_of_noHang {s : State} (h : s.hung = false) (hm : s.cfg.busMayHang = false) :
    encodeAndSend s = sentFrames s.cfg.numChunks s := emitFrames_of_noHang _ h hm

/-- Events on a bus that may hang: the driven ones are a prefix, and the block is hung when one of
the draws said so (60_exceptions.md R266). -/
theorem busEmitAll_mayHang {es : List BusEvent} {s : State} (h : s.hung = false)
    (hm : s.cfg.busMayHang = true) :
    busEmitAll es s = { s with
      bus := s.bus ++ es.take (drivenOf s.busDraws es.length)
      hung := stopsWithin s.busDraws es.length
      busDraws := s.busDraws.drop (drivenOf s.busDraws es.length) } := by
  induction es generalizing s with
  | nil => cases hd : s.busDraws <;> (apply State.ext <;> simp [busEmitAll, drivenOf, stopsWithin, h, hd])
  | cons e es ih =>
    have hcons : busEmitAll (e :: es) s = busEmitAll es (busEmit s e) := rfl
    rw [hcons]
    cases hd : s.busDraws with
    | nil =>
      rw [ih (by simp [busEmit, h, hm, hd]) (by simpa using hm)]
      simp [busEmit, h, hm, hd, drivenOf, stopsWithin]
      cases es <;> simp [drivenOf]
    | cons d ds =>
      cases d with
      | true =>
        rw [busEmitAll_hung (by simp [busEmit, h, hm, hd])]
        simp [busEmit, h, hm, hd, drivenOf, stopsWithin]
      | false =>
        rw [ih (by simp [busEmit, h, hm, hd]) (by simpa using hm)]
        simp [busEmit, h, hm, hd, drivenOf, stopsWithin]

/-! ### A bus that may hang -/

theorem drivenOf_le (ds : List Bool) (n : Nat) : drivenOf ds n ≤ n := by
  induction n generalizing ds with
  | zero => simp [drivenOf]
  | succ n ih =>
    match ds with
    | [] => simp [drivenOf]
    | true :: _ => simp [drivenOf]
    | false :: ds => simpa [drivenOf] using ih ds

theorem drivenOf_pos (ds : List Bool) (n : Nat) (h : 0 < n) : 0 < drivenOf ds n := by
  obtain ⟨k, rfl⟩ : ∃ k, n = k + 1 := ⟨n - 1, by omega⟩
  match ds with
  | [] => simp [drivenOf]
  | true :: _ => simp [drivenOf]
  | false :: ds => simp [drivenOf]

theorem stopsWithin_add (ds : List Bool) (a b : Nat) :
    stopsWithin ds (a + b) = (stopsWithin ds a || stopsWithin (ds.drop a) b) := by
  simp [stopsWithin, List.take_add]

theorem drivenOf_add_of_stops {ds : List Bool} {a : Nat} (b : Nat) (h : stopsWithin ds a = true) :
    drivenOf ds (a + b) = drivenOf ds a := by
  induction a generalizing ds with
  | zero => simp [stopsWithin] at h
  | succ a ih =>
    rw [Nat.add_right_comm]
    match ds with
    | [] => simp [stopsWithin] at h
    | true :: _ => simp [drivenOf]
    | false :: ds => simpa [drivenOf] using ih (by simpa [stopsWithin] using h)

theorem drivenOf_add_of_goes {ds : List Bool} {a : Nat} (b : Nat) (h : stopsWithin ds a = false) :
    drivenOf ds (a + b) = a + drivenOf (ds.drop a) b := by
  induction a generalizing ds with
  | zero => simp
  | succ a ih =>
    rw [Nat.add_right_comm]
    match ds with
    | [] => cases b <;> simp [drivenOf]; omega
    | true :: _ => simp [stopsWithin] at h
    | false :: ds =>
      have := ih (ds := ds) (by simpa [stopsWithin] using h)
      simp [drivenOf, this]; omega

theorem drivenOf_of_goes {ds : List Bool} {a : Nat} (h : stopsWithin ds a = false) : drivenOf ds a = a := by
  simpa [drivenOf] using drivenOf_add_of_goes 0 h

theorem frameWord_mayHang (n : Nat) (s : State) (h : stopsWithin s.busDraws (eventsPerFrame * n) = false) :
    frameWord (sentFramesMayHang n s) n = packFrame (chunk s.cfg s.mem n) s.tpl (drOfFrame s n) n := by
  have : (sentFramesMayHang n s).initLeft = initLeftAfter n s := by simp [sentFramesMayHang, h]
  simp [frameWord, drOfFrame, this, initLeftAfter_bne]

/-- emit_frame(0), …, emit_frame(n-1) on a bus that may hang: the closed form (60_exceptions.md R266). -/
theorem emitFrames_mayHang (n : Nat) {s : State} (h : s.hung = false) (hm : s.cfg.busMayHang = true) :
    emitFrames n s = sentFramesMayHang n s := by
  unfold emitFrames
  induction n with
  | zero =>
    have h0 : drivenOf s.busDraws 0 = 0 := by cases s.busDraws <;> rfl
    apply State.ext <;> simp [sentFramesMayHang, stopsWithin, h, h0, framesOf]
  | succ n ih =>
    rw [List.range_succ, List.foldl_append, ih]
    simp only [List.foldl_cons, List.foldl_nil]
    have hadd : eventsPerFrame * (n + 1) = eventsPerFrame * n + eventsPerFrame := by ring
    cases hs : stopsWithin s.busDraws (eventsPerFrame * n) with
    | true =>
      rw [emitFrame_hung (by simpa using hs)]
      have e1 := drivenOf_add_of_stops eventsPerFrame hs
      have e2 := stopsWithin_add s.busDraws (eventsPerFrame * n) eventsPerFrame
      have e3 := drivenOf_le s.busDraws (eventsPerFrame * n)
      apply State.ext <;> simp only [sentFramesMayHang, hadd, e1, e2, hs, Bool.true_or, if_true, framesOf_succ, traceOf_append]
      rw [List.take_append_of_le_length (by simpa using e3)]
    | false =>
      simp only [emitFrame, sendFrame, frameWord_mayHang n s hs]
      rw [busEmitAll_mayHang (by simpa using hs) (by simpa using hm)]
      have e1 := drivenOf_add_of_goes eventsPerFrame hs
      have e2 := stopsWithin_add s.busDraws (eventsPerFrame * n) eventsPerFrame
      have e3 := drivenOf_of_goes hs
      have e4 := drivenOf_pos (s.busDraws.drop (eventsPerFrame * n)) eventsPerFrame (by decide)
      have e5 := drivenOf_le (s.busDraws.drop (eventsPerFrame * n)) eventsPerFrame
      have e6 := initLeftAfter_succ s n
      simp only [countFrame, frameEvents_length, sentFramesMayHang_busDraws, sentFramesMayHang_cfg, e3]
      have hi : (sentFramesMayHang n s).initLeft = initLeftAfter n s := by simp [sentFramesMayHang, hs]
      have hb : (sentFramesMayHang n s).bus = s.bus ++ traceOf s.cfg (framesOf n s) := by
        simp only [sentFramesMayHang_bus, e3]; rw [List.take_of_length_le (by simp)]
      have htake : (traceOf s.cfg (framesOf (n + 1) s)).take (eventsPerFrame * n + drivenOf (s.busDraws.drop (eventsPerFrame * n)) eventsPerFrame) =
          traceOf s.cfg (framesOf n s) ++ (frameEvents s.cfg (packFrame (chunk s.cfg s.mem n) s.tpl (drOfFrame s n) n)).take (drivenOf (s.busDraws.drop (eventsPerFrame * n)) eventsPerFrame) := by
        rw [framesOf_succ, traceOf_append, List.take_append]
        simp
      cases hs2 : stopsWithin (s.busDraws.drop (eventsPerFrame * n)) eventsPerFrame with
      | true =>
        simp only [if_true]
        apply State.ext <;> simp only [sentFramesMayHang, hadd, e1, e2, hs, hs2, e3, Bool.false_or, if_true, htake, List.drop_drop, List.append_assoc]
        · simp only [Bool.false_eq_true, if_false]
          congr 1
          unfold eventsPerFrame at *
          omega
        · rw [List.take_of_length_le (by simp)]
      | false =>
        simp only [Bool.false_eq_true, if_false, hi, initLeftAfter_bne, decide_eq_true_eq]
        have e7 := drivenOf_of_goes hs2
        rw [e7] at htake e1
        by_cases hn : n < s.initLeft.toNat
        · simp only [hn, if_true] at e6 ⊢
          apply State.ext <;> simp [sentFramesMayHang, hadd, e1, e2, hs, hs2, e3, htake, e7, List.drop_drop, e6]
        · simp only [hn, if_false] at e6 ⊢
          apply State.ext <;> simp [sentFramesMayHang, hadd, e1, e2, hs, hs2, e3, htake, e7, List.drop_drop, e6]

/-! ### The debouncer -/

theorem notWithin_testBit (n v k : Nat) : (notWithin n v).testBit k = (decide (k < n) && !v.testBit k) := by
  simp only [notWithin, Nat.testBit_xor, Nat.testBit_two_pow_sub_one, Nat.testBit_mod_two_pow]
  by_cases h : k < n <;> simp [h]

theorem notWithin_lt (n v : Nat) : notWithin n v < 2 ^ n := by
  apply Nat.lt_pow_two_of_testBit
  intro i hi
  simp [notWithin_testBit]; omega

theorem foldl_and_testBit (vs : List KeyVec) (v k : Nat) :
    (vs.foldl (· &&& ·) v).testBit k = (v.testBit k && vs.all (·.testBit k)) := by
  induction vs generalizing v with
  | nil => simp
  | cons a vs ih => simp [ih, Bool.and_assoc]

/-- A bit of the AND of a ring that is not empty: it is 1 in every entry (41_debounce.md R173). -/
theorem andAll_testBit {vs : List KeyVec} (h : vs ≠ []) (k : Nat) :
    (andAll vs).testBit k = vs.all (·.testBit k) := by
  cases vs with
  | nil => exact absurd rfl h
  | cons v vs => simp [andAll, foldl_and_testBit]

/-- A bit of the conditioned sample: an inverted pin, or a bit of the classifier's mask (R171, R172). -/
theorem rawSample_testBit (s : State) (pins k : Nat) :
    (s.rawSample pins).testBit k =
      if k < s.cfg.numBtn then !pins.testBit k else s.analogBits.testBit (k - s.cfg.numBtn) := by
  simp only [State.rawSample, buttonBits, Nat.testBit_or, Nat.testBit_shiftLeft, notWithin_testBit]
  by_cases h : k < s.cfg.numBtn
  · have : ¬ s.cfg.numBtn ≤ k := by omega
    simp [h, this]
  · have : s.cfg.numBtn ≤ k := by omega
    simp [h, this]

theorem classifyIn_mem (es : List ThresholdEntry) (v : Reading) :
    classifyIn es v = 0 ∨ ∃ e ∈ es, classifyIn es v = e.mask := by
  induction es with
  | nil => simp [classifyIn]
  | cons e es ih =>
    unfold classifyIn
    split
    · exact .inr ⟨e, by simp, rfl⟩
    · rcases ih with h | ⟨e', he', h⟩
      · exact .inl h
      · exact .inr ⟨e', by simp [he'], h⟩

/-- The classifier's mask has NUM_AKEY bits (43_keyclass.md R240, 30_encoding.md R113). -/
theorem classify_lt {c : Config} (h : c.wf = true) (v : Reading) : classify c v < 2 ^ c.numAKey := by
  simp only [Config.wf, Config.wfThresholds, Bool.and_eq_true, List.all_eq_true, decide_eq_true_eq] at h
  rcases classifyIn_mem c.thresholds v with h0 | ⟨e, he, h0⟩
  · simp [classify, h0]
  · rw [classify, h0]; exact h.1.1.2.2 e he

/-! ### Payload bytes -/

/-- The payload of a vector is that number, low byte first (20_memory.md R66). -/
theorem payloadNumber_bytesLE (n v : Nat) (h : v < 2 ^ (8 * n)) : payloadNumber (bytesLE n v) = v := by
  have aux : ∀ n v, v < 2 ^ (8 * n) →
      Nat.ofDigits 256 ((List.range n).map fun k => (BitVec.ofNat 8 (v >>> (8 * k))).toNat) = v := by
    intro n
    induction n with
    | zero => intro v hv; simp at hv; simp [hv]
    | succ n ih =>
      intro v hv
      rw [List.range_succ_eq_map]
      simp only [List.map_cons, List.map_map, Nat.ofDigits_cons]
      have hq : v / 256 < 2 ^ (8 * n) := by
        rw [Nat.div_lt_iff_lt_mul (by norm_num)]
        have : 2 ^ (8 * (n + 1)) = 2 ^ (8 * n) * 256 := by rw [mul_add, pow_add]; norm_num
        omega
      have hfun : ((fun k => (BitVec.ofNat 8 (v >>> (8 * k))).toNat) ∘ Nat.succ) =
          fun k => (BitVec.ofNat 8 ((v / 256) >>> (8 * k))).toNat := by
        funext k
        have : 8 * (k + 1) = 8 + 8 * k := by ring
        simp only [Function.comp, Nat.succ_eq_add_one, this, Nat.shiftRight_add, Nat.shiftRight_eq_div_pow v 8]
      rw [hfun, ih _ hq]
      simp
      omega
  simpa [payloadNumber, bytesLE, List.map_map, Function.comp_def] using aux n v h

@[simp] theorem bytesLE_length (n v : Nat) : (bytesLE n v).length = n := by simp [bytesLE]

end Sys2Proof.Machine
end

