-- ==== Sys2Proof/Laws/Exec.lean ====
section
/-! SUPPORT. What the shared operations above the bus and the memory can do, said once: a command on a
hung block, frames and responses as record updates, the string loop of DISP_PUTS, the channel table
and the sampler in exact arithmetic, and runs of several instructions. -/

namespace Sys2Proof.Machine

/-! ### Commands, frames and responses as updates -/

/-- A hung block accepts no command (60_exceptions.md R266). -/
theorem exec_of_hung {i : Instr} (hc : i.isCommand = true) {s : State} (h : s.hung = true) :
    exec i s = .next s := by
  cases i <;> simp only [Instr.isCommand, Bool.false_eq_true] at hc <;>
    simp only [exec, execNop, execUnknown, execDispInit, execDispClear, execDispPutc, execDispPuts,
      execDispSym, execDispFlush, execDispSettpl, execKeyStatus, execKeyPressed, execKeyReleased,
      execKeyState, execKeyPress, execKeyClassify, execAdcReg, execAdcGet, command_of_hung h]

theorem emitFrames_of_hung {n : Nat} {s : State} (h : s.hung = true) : emitFrames n s = s := by
  unfold emitFrames
  induction n with
  | zero => rfl
  | succ n ih => rw [List.range_succ, List.foldl_append, ih]; exact emitFrame_hung h

/-- Frames write the trace, init_left and the hang alone (40_display.md R130). -/
theorem emitFrames_writes (n : Nat) (s : State) : ∃ b i h d,
    emitFrames n s = { s with bus := b, initLeft := i, hung := h, busDraws := d } := by
  rcases Bool.eq_false_or_eq_true s.hung with h | h
  · rw [emitFrames_of_hung h]; exact ⟨s.bus, s.initLeft, s.hung, s.busDraws, rfl⟩
  · rcases Bool.eq_false_or_eq_true s.cfg.busMayHang with hm | hm
    · rw [emitFrames_mayHang n h hm]; exact ⟨_, _, _, _, rfl⟩
    · rw [emitFrames_of_noHang n h hm]; exact ⟨_, _, s.hung, s.busDraws, rfl⟩

/-- A response writes the response stream alone (30_encoding.md R98). -/
theorem respond_writes (st : Status) (p : List Byte) (s : State) : ∃ r, respond st p s = { s with rsp := r } := by
  rcases Bool.eq_false_or_eq_true s.hung with h | h
  · exact ⟨s.rsp, respond_of_hung h⟩
  · exact ⟨_, respond_of_not_hung h⟩

theorem isCommand_of_isDisplay {i : Instr} (h : isDisplay i = true) : i.isCommand = true := by
  cases i <;> first | rfl | cases h

/-- Frames and the response after them write these fields alone (40_display.md R134). -/
theorem respond_emitFrames_writes (n : Nat) (st : Status) (s : State) : ∃ b il h d r,
    respond st [] (emitFrames n s) =
      { s with bus := b, initLeft := il, hung := h, busDraws := d, rsp := r } := by
  obtain ⟨b, il, h, d, e⟩ := emitFrames_writes n s
  obtain ⟨r, e'⟩ := respond_writes st [] { s with bus := b, initLeft := il, hung := h, busDraws := d }
  exact ⟨b, il, h, d, r, by rw [e, e']⟩

/-- A command that triggers the FrameEncoder sends the frames `flushOf` says, then its status
(40_display.md R134 to R141). -/
theorem exec_of_flushOf_some {i : Instr} {s u : State} {n : Nat} {st : Status} (h : s.hung = false)
    (hf : flushOf i s = some (n, u, st)) : exec i s = .next (respond st [] (emitFrames n u)) := by
  cases i <;> simp only [flushOf, reduceCtorEq] at hf
  case dispInit =>
    cases hf
    simp only [exec, execDispInit, command_of_not_hung h]
  case dispFlush =>
    cases hf
    simp only [exec, execDispFlush, encodeAndSend, command_of_not_hung h]
  case dispClear =>
    cases hf
    simp only [exec, execDispClear, encodeAndSend, command_of_not_hung h]
    rfl
  case dispPutc pos chr =>
    split at hf <;> cases hf
    rename_i hc
    simp only [exec, execDispPutc, command_of_not_hung h]
    rw [if_pos (by simpa [charOk] using hc)]
    rfl
  case dispPuts pos chrs =>
    cases hf
    simp only [exec, execDispPuts, command_of_not_hung h, encodeAndSend, raise]
    split <;> rfl
  case dispSym sym en =>
    split at hf <;> cases hf
    rename_i hc
    simp only [exec, execDispSym, command_of_not_hung h]
    rw [if_pos hc]
    rfl

/-- What such a command has written before its frames (R135 to R141). -/
theorem flushOf_writes {i : Instr} {s u : State} {n : Nat} {st : Status} (hf : flushOf i s = some (n, u, st)) :
    ∃ m il, u = { s with mem := m, initLeft := il } ∧
      (m = s.mem ∨ i = .dispClear ∨ (∃ p c, i = .dispPutc p c) ∨ (∃ p l, i = .dispPuts p l) ∨
        (∃ y e, i = .dispSym y e)) := by
  cases i <;> simp only [flushOf, reduceCtorEq] at hf
  case dispInit => cases hf; exact ⟨s.mem, 4, rfl, .inl rfl⟩
  case dispFlush => cases hf; exact ⟨s.mem, s.initLeft, rfl, .inl rfl⟩
  case dispClear => cases hf; exact ⟨_, s.initLeft, rfl, .inr (.inl rfl)⟩
  case dispPutc => split at hf <;> cases hf; exact ⟨_, s.initLeft, rfl, .inr (.inr (.inl ⟨_, _, rfl⟩))⟩
  case dispPuts => cases hf; exact ⟨_, s.initLeft, rfl, .inr (.inr (.inr (.inl ⟨_, _, rfl⟩)))⟩
  case dispSym => split at hf <;> cases hf; exact ⟨_, s.initLeft, rfl, .inr (.inr (.inr (.inr ⟨_, _, rfl⟩)))⟩

/-- A form of a display command that sends no frame writes the template at most, and answers
(R137, R141, R143, R144). -/
theorem exec_of_flushOf_none {i : Instr} {s : State} (h : s.hung = false) (hd : isDisplay i = true)
    (hf : flushOf i s = none) : ∃ st tp, exec i s = .next (respond st [] { s with tpl := tp }) ∧
      (tp = s.tpl ∨ ∃ cu p dr sc bu, i = .dispSettpl cu p dr sc bu) := by
  cases i <;> simp only [flushOf, isDisplay, reduceCtorEq, Bool.false_eq_true] at hf hd
  case nop => exact ⟨.ok, s.tpl, command_of_not_hung h, .inl rfl⟩
  case unknown => exact ⟨.ok, s.tpl, command_of_not_hung h, .inl rfl⟩
  case dispSettpl cu p dr sc bu =>
    refine ⟨.ok, { cu := cu, p := p, dr := dr, sc := sc, bu := bu }, ?_, .inr ⟨_, _, _, _, _, rfl⟩⟩
    simp only [exec, execDispSettpl, command_of_not_hung h]
  case dispPutc pos chr =>
    split at hf <;> [cases hf; skip]
    rename_i hc
    refine ⟨.cfgErr, s.tpl, ?_, .inl rfl⟩
    simp only [exec, execDispPutc, command_of_not_hung h]
    rw [if_neg (by simpa [charOk] using hc)]
    rfl
  case dispSym sym en =>
    split at hf <;> [cases hf; skip]
    rename_i hc
    refine ⟨.cfgErr, s.tpl, ?_, .inl rfl⟩
    simp only [exec, execDispSym, command_of_not_hung h]
    rw [if_neg hc]
    rfl

/-- What a display command can write, and what a form that sends no frame leaves (10_state.md R43). -/
theorem exec_display_writes {i : Instr} (hd : isDisplay i = true) (s : State) : ∃ m tp b il h d r,
    exec i s = .next
      { s with mem := m, tpl := tp, bus := b, initLeft := il, hung := h, busDraws := d, rsp := r } ∧
    (m = s.mem ∨ i = .dispClear ∨ (∃ p c, i = .dispPutc p c) ∨ (∃ p l, i = .dispPuts p l) ∨
      (∃ y e, i = .dispSym y e)) ∧
    (tp = s.tpl ∨ ∃ cu p dr sc bu, i = .dispSettpl cu p dr sc bu) ∧
    (b = s.bus ∧ il = s.initLeft ∧ h = s.hung ∧ d = s.busDraws ∨ flushOf i s ≠ none) := by
  rcases Bool.eq_false_or_eq_true s.hung with h | h
  · exact ⟨s.mem, s.tpl, s.bus, s.initLeft, s.hung, s.busDraws, s.rsp,
      exec_of_hung (isCommand_of_isDisplay hd) h, .inl rfl, .inl rfl, .inl ⟨rfl, rfl, rfl, rfl⟩⟩
  · cases hf : flushOf i s with
    | none =>
      obtain ⟨st, tp, e, ht⟩ := exec_of_flushOf_none h hd hf
      obtain ⟨r, e'⟩ := respond_writes st [] { s with tpl := tp }
      exact ⟨s.mem, tp, s.bus, s.initLeft, s.hung, s.busDraws, r, by rw [e, e'], .inl rfl, ht,
        .inl ⟨rfl, rfl, rfl, rfl⟩⟩
    | some f =>
      obtain ⟨n, u, st⟩ := f
      obtain ⟨m, il, rfl, hm⟩ := flushOf_writes hf
      obtain ⟨b, il', hg, d, r, e⟩ := respond_emitFrames_writes n st { s with mem := m, initLeft := il }
      exact ⟨m, s.tpl, b, il', hg, d, r, by rw [exec_of_flushOf_some h hf, e], hm, .inl rfl, .inr (by simp)⟩

/-! ### DisplayMemory and strings -/

/-- MemWrite(L, n, v): bits L..L+n-1 take the bits of v, every other is kept (00_scope.md R12). -/
theorem DisplayMemory.bit_write (m : DisplayMemory) (L n : Nat) (v : BitVec n) (h : L + n ≤ 192) (K : Nat) :
    (m.write L n v).bit K = if L ≤ K ∧ K < L + n then v.getLsbD (K - L) else m.bit K := by
  have key := bit_foldl_setBit (fun j => L + j) (fun j => v.getLsbD j) (List.range n) m
    (fun i hi => by simp at hi; omega) (fun i _ j _ e => by omega)
  split
  · rename_i hK
    have := key.1 (K - L) (by simp; omega)
    rwa [show L + (K - L) = K by omega] at this
  · exact key.2 K (fun i hi => by simp at hi; omega)

theorem charOk_iff (q : Nat) (chr : Byte) :
    charOk q chr = true ↔ q ≤ 7 ∧ 0x20 ≤ chr.toNat ∧ chr.toNat ≤ 0x7E := by
  simp [charOk, inFont]

/-- The loop of DISP_PUTS stops at its first error, the k-th character (40_display.md R139). -/
theorem renderString_spec (c : Config) (chrs : List Byte) : ∀ (q k : Nat) (m : DisplayMemory), k ≤ chrs.length →
    (∀ j x, j < k → chrs[j]? = some x → charOk (q + j) x = true) →
    (∀ x, chrs[k]? = some x → charOk (q + k) x = false) →
    renderString c q chrs m =
      (((chrs.take k).zipIdx q).foldl (fun m xq => renderChar c xq.1 xq.2 m) m, decide (k < chrs.length)) := by
  induction chrs with
  | nil => intro q k m hk _ _; simp at hk; subst hk; simp [renderString]
  | cons a chrs ih =>
    intro q k m hk h1 h2
    cases k with
    | zero => have := h2 a (by simp); simp [renderString] at this ⊢; simp [this]
    | succ k =>
      have ha := h1 0 a (by omega) (by simp)
      simp only [renderString, Nat.add_zero] at ha ⊢
      rw [if_pos ha, ih (q + 1) k _ (by simpa using hk)]
      · simp
      · intro j x hj hx
        have := h1 (j + 1) x (by omega) (by simpa using hx)
        rw [← this]; congr 1; omega
      · intro x hx
        have := h2 x (by simpa using hx)
        rw [← this]; congr 1; omega

/-! ### The trace -/

theorem traceOf_cons (c : Config) (F : FrameWord) (Fs : List FrameWord) :
    traceOf c (F :: Fs) = frameEvents c F ++ traceOf c Fs := rfl

theorem chipSelectFrom_append (h : Bool) (as bs : List BusEvent) :
    chipSelectFrom h (as ++ bs) = chipSelectFrom (chipSelectFrom h as) bs := by
  induction as generalizing h with
  | nil => rfl
  | cons e as ih => cases e <;> simp [chipSelectFrom, ih]

theorem chipSelectFrom_bytes (h : Bool) (bs : List Byte) (es : List BusEvent) :
    chipSelectFrom h (bs.map BusEvent.byte ++ es) = chipSelectFrom h es := by
  induction bs with
  | nil => rfl
  | cons b bs ih => simpa [chipSelectFrom] using ih

/-! ### The channel table and the sampler -/

/-- Reading a record after writing one (10_state.md R38). -/
theorem chanAt_setChan {s : State} {i : Nat} (ch : Channel) (h : i < s.chan.length) (j : Nat) :
    (s.setChan i ch).chanAt j = if j = i then ch else s.chanAt j := by
  simp only [State.chanAt, setChan_chan, List.getD_eq_getElem?_getD, List.getElem?_set]
  by_cases e : j = i
  · subst e; simp [h]
  · simp [e, Ne.symm e]

/-- Writing one record, in or out of the table, leaves every other. -/
theorem chanAt_setChan_cases (s : State) (i k : Nat) (ch : Channel) :
    (s.setChan i ch).chanAt k = s.chanAt k ∨ k = i ∧ (s.setChan i ch).chanAt k = ch := by
  by_cases h : i < s.chan.length
  · rw [chanAt_setChan ch h]; split
    · right; simp_all
    · left; rfl
  · left
    simp only [State.chanAt, setChan_chan]
    rw [List.set_eq_of_length_le (by omega)]

/-- The next ADC_DONE publishes for the channel at the cursor or for none (42_adcmux.md R203). -/
theorem publishTarget_eq_some {s : State} {k : Nat} :
    publishTarget s = some k ↔ s.running = true ∧ s.cnt + 1 = (s.chanAt s.cur).ns ∧ s.cur = k := by
  unfold publishTarget
  split <;> simp_all

theorem sample_toNat (res : Bool) (r : Reading) : (sample res r).toNat = sampleNat res r := by
  have := r.isLt
  cases res <;> simp [sample, sampleNat] <;> omega

theorem sampleNat_le (res : Bool) (r : Reading) : sampleNat res r ≤ maxSample res := by
  have := r.isLt
  cases res <;> simp [sampleNat, maxSample] <;> omega

/-- No sum wraps: the accumulator with one more sample (42_adcmux.md R207). -/
theorem acc_add_sample_le {s : State} (hi : MuxInv s) (hr : s.running = true) (r : Reading) :
    s.acc.toNat + sampleNat (s.chanAt s.cur).res r ≤ (s.cnt.toNat + 1) * maxSample (s.chanAt s.cur).res ∧
    s.acc.toNat + sampleNat (s.chanAt s.cur).res r < 2 ^ 18 ∧
    s.cnt.toNat + 1 ≤ (s.chanAt s.cur).ns.toNat := by
  have h1 := hi.cnt_lt hr
  have h2 := hi.acc_le hr
  have h3 := sampleNat_le (s.chanAt s.cur).res r
  have h4 := (s.chanAt s.cur).ns.isLt
  have h5 : maxSample (s.chanAt s.cur).res ≤ 1023 := by cases (s.chanAt s.cur).res <;> simp [maxSample]
  have h6 : (s.cnt.toNat + 1) * maxSample (s.chanAt s.cur).res ≤ 255 * 1023 := Nat.mul_le_mul (by omega) h5
  have h7 : (s.cnt.toNat + 1) * maxSample (s.chanAt s.cur).res =
      s.cnt.toNat * maxSample (s.chanAt s.cur).res + maxSample (s.chanAt s.cur).res := by ring
  omega

/-- One reading of a running sampler in exact arithmetic (42_adcmux.md R203, R207). -/
theorem takeReading_spec {s : State} (hi : MuxInv s) (hr : s.running = true) (r : Reading) :
    (s.cnt.toNat + 1 < (s.chanAt s.cur).ns.toNat → takeReading r s = { s with
      acc := BitVec.ofNat 18 (s.acc.toNat + sampleNat (s.chanAt s.cur).res r)
      cnt := BitVec.ofNat 8 (s.cnt.toNat + 1) }) ∧
    (s.cnt.toNat + 1 = (s.chanAt s.cur).ns.toNat → takeReading r s = { s with
      chan := s.chan.set s.cur { s.chanAt s.cur with
        result := BitVec.ofNat 10
          ((s.acc.toNat + sampleNat (s.chanAt s.cur).res r) / (s.chanAt s.cur).ns.toNat)
        ready := true }
      cur := (s.cur + 1) % s.nchan
      acc := 0
      cnt := 0 }) := by
  obtain ⟨_, b2, b3⟩ := acc_add_sample_le hi hr r
  have h4 := (s.chanAt s.cur).ns.isLt
  have ha : s.acc + sample (s.chanAt s.cur).res r =
      BitVec.ofNat 18 (s.acc.toNat + sampleNat (s.chanAt s.cur).res r) := by
    apply BitVec.eq_of_toNat_eq; simp [sample_toNat]
  have hc : s.cnt + 1 = BitVec.ofNat 8 (s.cnt.toNat + 1) := by
    apply BitVec.eq_of_toNat_eq; simp
  have hcn : (s.cnt + 1 = (s.chanAt s.cur).ns) ↔ s.cnt.toNat + 1 = (s.chanAt s.cur).ns.toNat := by
    rw [hc, ← BitVec.toNat_inj]; simp; omega
  constructor
  · intro h
    simp only [takeReading]
    rw [if_neg (by rw [hcn]; omega), ha, hc]
  · intro h
    have hq : BitVec.setWidth 10 (BitVec.ofNat 18 (s.acc.toNat + sampleNat (s.chanAt s.cur).res r) /
          BitVec.setWidth 18 (s.chanAt s.cur).ns) =
        BitVec.ofNat 10 ((s.acc.toNat + sampleNat (s.chanAt s.cur).res r) / (s.chanAt s.cur).ns.toNat) := by
      apply BitVec.eq_of_toNat_eq
      simp only [BitVec.toNat_setWidth, BitVec.toNat_udiv, BitVec.toNat_ofNat]
      rw [Nat.mod_eq_of_lt b2, Nat.mod_eq_of_lt (a := (s.chanAt s.cur).ns.toNat) (by omega)]
    simp only [takeReading, hcn, h, if_true, publish, State.setChan, ha, hq]

/-! ### The debouncer -/

/-- TICKs one after another push their samples one after another (41_debounce.md R171). -/
theorem execAll_ticks (ps : List KeyVec) (s : State) :
    execAll (ps.map Instr.tick) s = .next (ps.foldl (fun s p => pushSample (s.rawSample p) s) s) := by
  induction ps generalizing s with
  | nil => rfl
  | cons p ps ih => simp only [List.map_cons, execAll, exec, execTick, event, List.foldl_cons, ih]

theorem andAll_lt {vs : List KeyVec} {n : Nat} (h : ∀ v ∈ vs, v < 2 ^ n) : andAll vs < 2 ^ n := by
  cases vs with
  | nil => simp [andAll]
  | cons v vs =>
    apply Nat.lt_pow_two_of_testBit
    intro i hi
    rw [andAll_testBit (by simp)]
    have := Nat.testBit_lt_two_pow (i := i)
      (lt_of_lt_of_le (h v (by simp)) (Nat.pow_le_pow_right (by norm_num) hi))
    simp [this]

/-! ### Runs -/

theorem execAll_append {is : List Instr} {s t : State} (h : execAll is s = .next t) (js : List Instr) :
    execAll (is ++ js) s = execAll js t := by
  induction is generalizing s with
  | nil => simp [execAll] at h; simp [h]
  | cons i is ih =>
    simp only [execAll, List.cons_append] at h ⊢
    cases he : exec i s with
    | next u => rw [he] at h; exact ih h
    | fault _ => rw [he] at h; cases h
    | refused _ => rw [he] at h; cases h

end Sys2Proof.Machine
end

