-- ==== Sys2Proof/Laws/PerInstr.lean ====
section
/-! SUPPORT. Statements made instruction by instruction: the encoder writes as many bytes as the format
of the command takes, none for an event (30_encoding.md R91, R92, R95). -/

namespace Sys2Proof.Laws

/-- The encoding of an instruction has the length of its format. -/
def EncodedLength.Statement (i : Instr) : Prop := (encode i).length = commandLength i

theorem EncodedLength.nop : EncodedLength.Statement .nop := rfl
theorem EncodedLength.dispInit : EncodedLength.Statement .dispInit := rfl
theorem EncodedLength.dispClear : EncodedLength.Statement .dispClear := rfl
theorem EncodedLength.dispPutc (pos chr : Byte) : EncodedLength.Statement (.dispPutc pos chr) := rfl
theorem EncodedLength.dispPuts (pos : Byte) (chrs : List Byte) : EncodedLength.Statement (.dispPuts pos chrs) := by simp [EncodedLength.Statement, encode, commandLength]; omega
theorem EncodedLength.dispSym (sym : Byte) (en : Bool) : EncodedLength.Statement (.dispSym sym en) := rfl
theorem EncodedLength.dispFlush : EncodedLength.Statement .dispFlush := rfl
theorem EncodedLength.dispSettpl (cu : Bool) (p : BitVec 4) (dr sc bu : Bool) : EncodedLength.Statement (.dispSettpl cu p dr sc bu) := rfl
theorem EncodedLength.keyStatus (key : Byte) : EncodedLength.Statement (.keyStatus key) := rfl
theorem EncodedLength.keyPressed (key : Byte) : EncodedLength.Statement (.keyPressed key) := rfl
theorem EncodedLength.keyReleased (key : Byte) : EncodedLength.Statement (.keyReleased key) := rfl
theorem EncodedLength.keyState : EncodedLength.Statement .keyState := rfl
theorem EncodedLength.keyPress : EncodedLength.Statement .keyPress := rfl
theorem EncodedLength.keyClassify (v : Reading) : EncodedLength.Statement (.keyClassify v) := rfl
theorem EncodedLength.adcReg (sel : Byte) (ref : BitVec 2) (res : Bool) (ns : Byte) : EncodedLength.Statement (.adcReg sel ref res ns) := rfl
theorem EncodedLength.adcGet (id : Byte) : EncodedLength.Statement (.adcGet id) := rfl
theorem EncodedLength.unknown (op : Byte) : EncodedLength.Statement (.unknown op) := rfl
theorem EncodedLength.tick (pins : KeyVec) : EncodedLength.Statement (.tick pins) := rfl
theorem EncodedLength.adcDone (r : Reading) : EncodedLength.Statement (.adcDone r) := rfl
theorem EncodedLength.reset : EncodedLength.Statement .reset := rfl

end Sys2Proof.Laws
end

