-- ==== Sys2Proof/Machine/Assembler.lean ====
section
/-! DEFINITION. The line syntax of spec/30_encoding.md R114: one command or event a line, read into the
arrivals it stands for. The line is a list of characters. -/

namespace Sys2Proof.Machine

/-- The tokens of a line. A character literal is the number of its code. -/
inductive Token where
  | word (cs : List Char)
  | num (n : Nat)
  | str (cs : List Char)
  | comma
deriving DecidableEq, Repr

/-- The value of a digit in base 16 or below. -/
def digitValue (c : Char) : Option Nat :=
  if '0' ≤ c ∧ c ≤ '9' then some (c.toNat - '0'.toNat)
  else if 'a' ≤ c ∧ c ≤ 'f' then some (c.toNat - 'a'.toNat + 10)
  else if 'A' ≤ c ∧ c ≤ 'F' then some (c.toNat - 'A'.toNat + 10)
  else none

/-- Digits of a base, after the value read so far. -/
def digitsFrom (base acc : Nat) : List Char → Option Nat
  | [] => some acc
  | c :: cs =>
    match digitValue c with
    | some d => if d < base then digitsFrom base (acc * base + d) cs else none
    | none => none

/-- A number: decimal, `0x` hexadecimal or `0b` binary (R114). -/
def numberOf : List Char → Option Nat
  | '0' :: 'x' :: c :: cs => digitsFrom 16 0 (c :: cs)
  | '0' :: 'b' :: c :: cs => digitsFrom 2 0 (c :: cs)
  | c :: cs => digitsFrom 10 0 (c :: cs)
  | [] => none

/-- A run of characters: a number if it starts with a digit, else a word; none if it does not read. -/
def wordToken (cs : List Char) : Option Token :=
  match cs with
  | c :: _ => if c.isDigit then (numberOf cs).map Token.num else some (.word cs)
  | [] => none

/-- Where the reading of a line stands. -/
inductive LexState where
  /-- between tokens -/
  | gap
  /-- inside a word or number, its characters reversed -/
  | word (acc : List Char)
  /-- inside a string, its characters reversed -/
  | str (acc : List Char)
  /-- after the quote that opens a character literal -/
  | chr
  /-- after its character -/
  | chrEnd (c : Char)
deriving DecidableEq, Repr

/-- The tokens of a line; a comment starts with `;` (R114). -/
def lexLine : LexState → List Char → Option (List Token)
  | .gap, [] => some []
  | .word acc, [] => (wordToken acc.reverse).map fun t => [t]
  | .str _, [] => none
  | .chr, [] => none
  | .chrEnd _, [] => none
  | .gap, c :: cs =>
    if c = ';' then some []
    else if c = ' ' ∨ c = '\t' then lexLine .gap cs
    else if c = ',' then (lexLine .gap cs).map (Token.comma :: ·)
    else if c = '"' then lexLine (.str []) cs
    else if c = '\'' then lexLine .chr cs
    else lexLine (.word [c]) cs
  | .word acc, c :: cs =>
    if c = ';' then (wordToken acc.reverse).map fun t => [t]
    else if c = ' ' ∨ c = '\t' then
      (wordToken acc.reverse).bind fun t => (lexLine .gap cs).map (t :: ·)
    else if c = ',' then
      (wordToken acc.reverse).bind fun t => (lexLine .gap cs).map fun ts => t :: .comma :: ts
    else lexLine (.word (c :: acc)) cs
  | .str acc, c :: cs =>
    if c = '"' then (lexLine .gap cs).map (Token.str acc.reverse :: ·) else lexLine (.str (c :: acc)) cs
  | .chr, c :: cs => lexLine (.chrEnd c) cs
  | .chrEnd c, q :: cs => if q = '\'' then (lexLine .gap cs).map (Token.num c.toNat :: ·) else none

/-- An operand of a line. -/
inductive Operand where
  | num (n : Nat)
  | str (cs : List Char)
deriving DecidableEq, Repr

/-- Operands separated by commas (R114). -/
def operandsOf : List Token → Option (List Operand)
  | [] => some []
  | [.num n] => some [.num n]
  | [.str cs] => some [.str cs]
  | .num n :: .comma :: t :: ts => (operandsOf (t :: ts)).map (Operand.num n :: ·)
  | .str cs :: .comma :: t :: ts => (operandsOf (t :: ts)).map (Operand.str cs :: ·)
  | _ => none

/-- Numbers as operand bytes, each 0..255 (R91). -/
def bytesOf : List Nat → Option (List Byte)
  | [] => some []
  | n :: ns => if n < 256 then (bytesOf ns).map (BitVec.ofNat 8 n :: ·) else none

/-- Operands that are all numbers. -/
def numbersOf : List Operand → Option (List Nat)
  | [] => some []
  | .num n :: os => (numbersOf os).map (n :: ·)
  | .str _ :: _ => none

/-- A command of fixed length: its opcode and `k` operand bytes. -/
def plainCommand (op : Byte) (k : Nat) (os : List Operand) : Option (List Byte) :=
  (numbersOf os).bind fun ns => if ns.length = k then (bytesOf ns).map (op :: ·) else none

/-- DISP_PUTS with a string, or with its length and characters written out (R114). -/
def putsCommand : List Operand → Option (List Byte)
  | [.num pos, .str cs] =>
    if cs.length ≤ 255 then
      (bytesOf (pos :: cs.length :: cs.map Char.toNat)).map ((0x04 : Byte) :: ·)
    else none
  | os => (numbersOf os).bind fun ns =>
    match ns with
    | pos :: len :: chrs =>
      if chrs.length = len then (bytesOf (pos :: len :: chrs)).map ((0x04 : Byte) :: ·) else none
    | _ => none

/-- ADC_REG sel, ref, res, ns with cfg = ref OR (res << 2) (R114). -/
def regCommand : List Operand → Option (List Byte)
  | [.num sel, .num ref, .num res, .num ns] =>
    if ref < 4 ∧ res < 2 then (bytesOf [sel, ref ||| (res <<< 2), ns]).map ((0x20 : Byte) :: ·) else none
  | _ => none

/-- KEY_CLASSIFY v with the 10-bit value as one number (R114). -/
def classifyCommand : List Operand → Option (List Byte)
  | [.num v] => if v < 1024 then some [0x15, BitVec.ofNat 8 v, BitVec.ofNat 8 (v / 256)] else none
  | _ => none

/-- The bytes of a command line (R114, Table O). -/
def assembleCommand (mnemonic : List Char) (os : List Operand) : Option (List Byte) :=
  if mnemonic = "NOP".toList then plainCommand 0x00 0 os
  else if mnemonic = "DISP_INIT".toList then plainCommand 0x01 0 os
  else if mnemonic = "DISP_CLEAR".toList then plainCommand 0x02 0 os
  else if mnemonic = "DISP_PUTC".toList then plainCommand 0x03 2 os
  else if mnemonic = "DISP_PUTS".toList then putsCommand os
  else if mnemonic = "DISP_SYM".toList then plainCommand 0x05 2 os
  else if mnemonic = "DISP_FLUSH".toList then plainCommand 0x06 0 os
  else if mnemonic = "DISP_SETTPL".toList then plainCommand 0x07 1 os
  else if mnemonic = "KEY_STATUS".toList then plainCommand 0x10 1 os
  else if mnemonic = "KEY_PRESSED".toList then plainCommand 0x11 1 os
  else if mnemonic = "KEY_RELEASED".toList then plainCommand 0x12 1 os
  else if mnemonic = "KEY_STATE".toList then plainCommand 0x13 0 os
  else if mnemonic = "KEY_PRESS".toList then plainCommand 0x14 0 os
  else if mnemonic = "KEY_CLASSIFY".toList then classifyCommand os
  else if mnemonic = "ADC_REG".toList then regCommand os
  else if mnemonic = "ADC_GET".toList then plainCommand 0x21 1 os
  else none

/-- The arrivals of a command or event with its operands (R114). -/
def assembleTokens (mnemonic : List Char) (os : List Operand) : Option (List Input) :=
  if mnemonic = "@RESET".toList then
    match os with
    | [] => some [.reset]
    | _ => none
  else if mnemonic = "@TICK".toList then
    match os with
    | [.num pins] => some [.tick pins]
    | _ => none
  else if mnemonic = "@ADC".toList then
    match os with
    | [.num r] => if r < 1024 then some [.adcDone (BitVec.ofNat 10 r)] else none
    | _ => none
  else (assembleCommand mnemonic os).map fun bs => bs.map Input.byte

/-- The arrivals a line stands for; an empty or comment line stands for none (R114). -/
def assembleLine (line : List Char) : Option (List Input) :=
  match lexLine .gap line with
  | some [] => some []
  | some (.word m :: ts) => (operandsOf ts).bind fun os => assembleTokens m os
  | _ => none

end Sys2Proof.Machine
end

