-- ==== Sys2Proof/Tests/Slice0.lean ====
section
/-! SUPPORT. Tests: the checks of WellFormed, every opcode's bytes written out from 30_encoding.md, one
step of each instruction on a vector of 95_test_vectors.md (expected values are those of that file),
and for every statement with hypotheses a state and operands that meet them. -/

open Sys2Proof Sys2Proof.Machine

namespace Sys2Proof.Tests

/-! ### WellFormed -/

theorem test_t0_wf : Config.t0.wf = true := by decide
theorem test_wf_partial_chunk : { Config.t0 with segmentCount := 155 }.wf = false := by decide
theorem test_wf_no_chunk : { Config.t0 with segmentCount := 0 }.wf = false := by decide
theorem test_wf_too_many_bits : { Config.t0 with segmentCount := 208 }.wf = false := by decide
theorem test_wf_too_many_chunks : { Config.t0 with segmentCount := 260 }.wf = false := by decide
theorem test_wf_char_rows : { Config.t0 with charMap := Config.t0.charMap.drop 1 }.wf = false := by decide
theorem test_wf_char_row_length :
    { Config.t0 with charMap := [] :: Config.t0.charMap.drop 1 }.wf = false := by decide
theorem test_wf_char_address :
    { Config.t0 with charMap := (192 :: ((Config.t0.charMap.headD []).drop 1)) :: Config.t0.charMap.drop 1 }.wf = false := by
  decide
theorem test_wf_char_distinct :
    { Config.t0 with charMap := (1 :: ((Config.t0.charMap.headD []).drop 1)) :: Config.t0.charMap.drop 1 }.wf = false := by
  decide
theorem test_wf_icon_address : { Config.t0 with iconMap := [191, 192] }.wf = false := by decide
theorem test_wf_font : { Config.t0 with font := [] }.wf = false := by decide
theorem test_wf_descending : { Config.t0 with thresholds := [⟨5, 0⟩, ⟨5, 0⟩] }.wf = false := by decide
theorem test_wf_no_threshold : { Config.t0 with thresholds := [] }.wf = false := by decide
theorem test_wf_mask : { Config.t0 with thresholds := [⟨5, 8⟩] }.wf = false := by decide
theorem test_wf_key_channel : { Config.t0 with keyChannel := 10 }.wf = false := by decide
theorem test_wf_depth : { Config.t0 with depth := 0 }.wf = false := by decide
theorem test_wf_string : (Instr.dispPuts 0 (List.replicate 256 0x41)).wf Config.t0 = false := by
  decide +kernel
theorem test_wf_unknown : (Instr.unknown 0x21).wf Config.t0 = false := by decide
theorem test_wf_pins : (Instr.tick 256).wf Config.t0 = false := by decide

/-! ### Decoding: bytes written out from Table O and Table F, one row each -/

theorem test_decode_nop : decode [0b0000_0000] = .ok (.nop, []) := by decide
theorem test_decode_dispInit : decode [0b0000_0001] = .ok (.dispInit, []) := by decide
theorem test_decode_dispClear : decode [0b0000_0010] = .ok (.dispClear, []) := by decide
theorem test_decode_dispPutc :
    decode [0b0000_0011, 0b0000_0111, 0b0011_1000] = .ok (.dispPutc 7 0x38, []) := by decide
theorem test_decode_dispPuts :
    decode [0b0000_0100, 0b0000_0110, 0b0000_0010, 0b0100_0001, 0b0011_0001, 0xEE] =
      .ok (.dispPuts 6 [0x41, 0x31], [0xEE]) := by decide
theorem test_decode_dispSym :
    decode [0b0000_0101, 0b0001_1011, 0b1111_1110] = .ok (.dispSym 27 false, []) := by decide
theorem test_decode_dispFlush : decode [0b0000_0110] = .ok (.dispFlush, []) := by decide
/-- ctl = bu sc dr p[3:0] cu, from bit 7 down (R93). -/
theorem test_decode_dispSettpl :
    decode [0b0000_0111, 0b0_1_0_1100_1] = .ok (.dispSettpl true 0b1100 false true false, []) := by decide
theorem test_decode_keyStatus : decode [0b0001_0000, 0b0000_1010] = .ok (.keyStatus 10, []) := by decide
theorem test_decode_keyPressed : decode [0b0001_0001, 0b1111_1111] = .ok (.keyPressed 255, []) := by decide
theorem test_decode_keyReleased : decode [0b0001_0010, 0b0000_0010] = .ok (.keyReleased 2, []) := by decide
theorem test_decode_keyState : decode [0b0001_0011] = .ok (.keyState, []) := by decide
theorem test_decode_keyPress : decode [0b0001_0100] = .ok (.keyPress, []) := by decide
/-- V-KC: `15 C8 FC` classifies 200, `15 C8 01` classifies 456. -/
theorem test_decode_keyClassify : decode [0b0001_0101, 0b1100_1000, 0b1111_1100] = .ok (.keyClassify 200, []) ∧
    decode [0b0001_0101, 0b1100_1000, 0b0000_0001] = .ok (.keyClassify 456, []) := by decide
/-- V-A8: cfg = 0xFB registers ref = 3, res = 0. -/
theorem test_decode_adcReg :
    decode [0b0010_0000, 0b0000_1001, 0b1111_1011, 0b0000_0001] = .ok (.adcReg 9 3 false 1, []) := by decide
theorem test_decode_adcGet : decode [0b0010_0001, 0b0000_0011] = .ok (.adcGet 3, []) := by decide
/-- V-X1: the byte after an unknown opcode is an opcode. -/
theorem test_decode_unknown : decode [0x08, 0x03, 0x00, 0x41] = .ok (.unknown 0x08, [0x03, 0x00, 0x41]) := by
  decide
/-- V-X2: the string's second character has not arrived. -/
theorem test_decode_truncated : decode [0x04, 0x00, 0x02, 0x41] = .error .truncated := by decide
theorem test_decode_empty : decode [] = .error .noOpcode := by decide
theorem test_table_word : decodeTableWord 32 0x01FB0920 = some (.adcReg 9 3 false 1) ∧
    decodeTableWord 24 0x020004 = some (.dispPuts 0 [0, 0]) ∧ decodeTableWord 0 0 = none := by decide

/-! ### One step of each instruction -/

/-- The next state, or the state after reset where there is none. -/
def nextOf (o : Host.Outcome State Fault Refusal) : State :=
  match o with
  | .next t => t
  | .fault _ => State.reset
  | .refused _ => State.reset

/-- The start state S0 of 95_test_vectors.md with an empty trace: init_left = 0. -/
def s0 : State := { State.reset with initLeft := 0 }

/-- The state after one step in which the bytes arrive. -/
def stepOn (s : State) (bytes : List Byte) : State := nextOf (step { s with inputs := bytes.map Input.byte })

/-- The frame bytes of a trace, without the bracket and the address byte. -/
def payloads (es : List BusEvent) : List (List BusEvent) :=
  (List.range (es.length / 11)).map fun k => (es.drop (11 * k + 2)).take 8

/-- Eight bytes as trace events. -/
def wire (bytes : List Byte) : List BusEvent := bytes.map BusEvent.byte

/-- V-X1. -/
theorem test_nop : stepOn State.reset [0x00] = { State.reset with rsp := [⟨.ok, []⟩] } := by decide
/-- V-X1. -/
theorem test_unknown : (stepOn State.reset [0xEE]).rspBytes = [0x00] ∧ (stepOn State.reset [0xEE]).bus = [] := by
  decide
/-- V-D1. -/
theorem test_dispInit : payloads (stepOn State.reset [0x01]).bus =
    [wire [0, 0, 0, 0, 0, 0, 0, 0x08], wire [0, 0, 0, 0, 0, 0, 0, 0x48], wire [0, 0, 0, 0, 0, 0, 0, 0x88],
     wire [0, 0, 0, 0, 0, 0, 0, 0xC8]] ∧ (stepOn State.reset [0x01]).initLeft = 0 := by decide +kernel
/-- V-D1, the first transaction in full. -/
theorem test_transaction : (stepOn State.reset [0x01]).bus.take 11 =
    [.csLow, .byte 0x41, .byte 0, .byte 0, .byte 0, .byte 0, .byte 0, .byte 0, .byte 0, .byte 0x08, .csHigh] := by
  decide +kernel
/-- E2. -/
theorem test_dispClear : (stepOn { s0 with mem := ⟨BitVec.allOnes 64, BitVec.allOnes 64, BitVec.allOnes 64⟩ } [0x02]).mem =
    ⟨0, 0, 0⟩ := by decide +kernel
/-- V-D4: across a chunk boundary. -/
theorem test_dispPutc : (stepOn s0 [0x03, 0x07, 0x38]).mem = ⟨0, 0x000003FC00000000, 0⟩ ∧
    payloads (stepOn s0 [0x03, 0x07, 0x38]).bus =
      [wire [0, 0, 0, 0, 0, 0, 0, 0], wire [0, 0, 0, 0, 0, 0xC0, 0x0F, 0x40], wire [0x03, 0, 0, 0, 0, 0, 0, 0x80]] := by
  decide +kernel
/-- V-D9. -/
theorem test_dispPutc_range : stepOn s0 [0x03, 0x08, 0x41] = { s0 with rsp := [⟨.cfgErr, []⟩] } ∧
    stepOn s0 [0x03, 0x00, 0x7F] = { s0 with rsp := [⟨.cfgErr, []⟩] } := by decide
/-- V-D11: off the right edge, one flush all the same. -/
theorem test_dispPuts : (stepOn s0 [0x04, 6, 4, 0x41, 0x31, 0x41, 0x31]).mem = ⟨0, 0x000000180F700000, 0⟩ ∧
    (stepOn s0 [0x04, 6, 4, 0x41, 0x31, 0x41, 0x31]).rspBytes = [0x01] ∧
    (stepOn s0 [0x04, 6, 4, 0x41, 0x31, 0x41, 0x31]).bus.length = 33 := by decide
/-- V-D12 (c). -/
theorem test_dispPuts_empty : (stepOn s0 [0x04, 8, 0]).rspBytes = [0x00] ∧ (stepOn s0 [0x04, 8, 0]).bus.length = 33 := by
  decide
/-- V-D5. -/
theorem test_dispSym : (stepOn s0 [0x05, 3, 0xFF]).mem = ⟨0, 0x0008000000000000, 0⟩ ∧
    (payloads (stepOn s0 [0x05, 3, 0xFF]).bus).getLast? = some (wire [0, 0x08, 0, 0, 0, 0, 0, 0x80]) := by decide
/-- V-D14. -/
theorem test_dispSym_range : (stepOn s0 [0x05, 28, 1]).rspBytes = [0x01] ∧ (stepOn s0 [0x05, 28, 1]).bus = [] := by
  decide
/-- V-D13 on the flush after DISP_SETTPL 0xFF. -/
theorem test_dispFlush : payloads (stepOn { s0 with tpl := ⟨true, 15, true, true, true⟩ } [0x06]).bus =
    [wire [0, 0, 0, 0, 0, 0, 0xC0, 0x3F], wire [0, 0, 0, 0, 0, 0, 0xC0, 0x7F], wire [0, 0, 0, 0, 0, 0, 0xC0, 0xBF]] := by
  decide
/-- V-D2: three of the four reset-flagged frames. -/
theorem test_dispFlush_reset_flag : (stepOn State.reset [0x06]).initLeft = 1 ∧
    (payloads (stepOn State.reset [0x06]).bus).getLast? = some (wire [0, 0, 0, 0, 0, 0, 0, 0x88]) := by decide
/-- V-D13. -/
theorem test_dispSettpl : (stepOn s0 [0x07, 0x1E]).tpl = ⟨false, 15, false, false, false⟩ ∧
    (stepOn s0 [0x07, 0x1E]).bus = [] := by decide

/-- A state whose debouncer shows an edge of button 0 up and of analog key 1 (key 9) down. -/
def edges : State := { s0 with stable := 0b000_00000001, changed := 0b010_00000001 }

/-- V-B7 at both ends of the range. -/
theorem test_keyStatus : (stepOn edges [0x10, 0]).rspBytes = [0, 1] ∧ (stepOn edges [0x10, 10]).rspBytes = [0, 0] ∧
    (stepOn edges [0x10, 11]).rspBytes = [1] := by decide
theorem test_keyPressed : (stepOn edges [0x11, 0]).rspBytes = [0, 1] ∧ (stepOn edges [0x11, 9]).rspBytes = [0, 0] := by
  decide
theorem test_keyReleased : (stepOn edges [0x12, 9]).rspBytes = [0, 1] ∧ (stepOn edges [0x12, 255]).rspBytes = [1] := by
  decide
/-- The example of R178. -/
theorem test_keyState : (stepOn { s0 with stable := 0b010_00000001 } [0x13]).rspBytes = [0, 0x01, 0x02] := by decide
theorem test_keyPress : (stepOn edges [0x14]).rspBytes = [0, 0x01, 0x00] := by decide
/-- V-KC at a boundary. -/
theorem test_keyClassify : (stepOn s0 [0x15, 0xE0, 0]).rspBytes = [0, 1] ∧ (stepOn s0 [0x15, 0xDF, 0]).rspBytes = [0, 2] ∧
    (stepOn s0 [0x15, 0xA7, 0]).rspBytes = [0, 0] := by decide
/-- V-A2, the registration. -/
theorem test_adcReg : (stepOn State.reset [0x20, 5, 5, 4]).chanAt 0 = ⟨5, 1, true, 4, 0, false⟩ ∧
    (stepOn State.reset [0x20, 5, 5, 4]).rspBytes = [0, 0] ∧ (stepOn State.reset [0x20, 5, 5, 4]).running = true := by
  decide
/-- V-A3: capacity before ns. -/
theorem test_adcReg_full : (stepOn { s0 with nchan := 10, running := true } [0x20, 0, 0, 0]).rspBytes = [2] ∧
    (stepOn s0 [0x20, 1, 4, 0]).rspBytes = [1] := by decide

/-- One 10-bit channel of two samples, its result 300 unread. -/
def mux1 : State := { State.reset with
  nchan := 1, running := true, chan := ⟨7, 0, true, 2, 300, true⟩ :: List.replicate 9 Channel.zero }

/-- Program P3: the result 300 is read as 2C 01, and its flag clears. -/
theorem test_adcGet : (stepOn mux1 [0x21, 0]).rspBytes = [0, 0x2C, 0x01] ∧
    ((stepOn mux1 [0x21, 0]).chanAt 0).ready = false := by decide
theorem test_adcGet_none : (stepOn mux1 [0x21, 1]).rspBytes = [1] ∧
    (stepOn { mux1 with chan := List.replicate 10 Channel.zero } [0x21, 0]).rspBytes = [3] := by decide
/-- V-B3: the tenth active sample in a row. -/
theorem test_tick : (nextOf (exec (.tick 0xFE) { State.reset with ring := 0 :: List.replicate 9 1 })).stable = 1 ∧
    (nextOf (exec (.tick 0xFE) { State.reset with ring := 0 :: List.replicate 9 1 })).pressed = 1 := by decide
/-- V-B1, TICK 13: one inactive sample releases. -/
theorem test_tick_release : (nextOf (exec (.tick 0xFF)
      { State.reset with ring := List.replicate 10 1, ridx := 9, stable := 1 })).released = 1 ∧
    (nextOf (exec (.tick 0xFF)
      { State.reset with ring := List.replicate 10 1, ridx := 9, stable := 1 })).ridx = 0 := by decide
/-- V-A2: 8-bit mode, readings 1023 and 257, the mean of 255 and 1. -/
theorem test_adcDone : (nextOf (exec (.adcDone 257)
      { mux1 with chan := ⟨7, 0, false, 2, 0, false⟩ :: List.replicate 9 Channel.zero, acc := 255, cnt := 1 })).chan.head? =
    some ⟨7, 0, false, 2, 128, true⟩ := by decide
/-- V-A4: no conversion is armed. -/
theorem test_adcDone_idle : exec (.adcDone 500) State.reset = .next State.reset := rfl
/-- R300. -/
theorem test_reset : nextOf (exec .reset { mux1 with initLeft := 0, stable := 3, mem := ⟨1, 2, 3⟩ }) = State.reset := by
  decide
/-- An event is served between two bytes of a command. -/
theorem test_interleaved : (nextOf (step { s0 with inputs := [.byte 0x03, .tick 0xFF, .byte 0, .byte 0x41] })).rx = [0x03] ∧
    (nextOf (step { s0 with inputs := [.byte 0x03, .tick 0xFF, .byte 0, .byte 0x41] })).ridx = 1 := by decide
/-- R266: the third event of the flush is not acknowledged. -/
theorem test_hang : (stepOn { s0 with cfg := { Config.t0 with busMayHang := true }, busDraws := [false, false, true] } [0x06]).bus =
    [.csLow, .byte 0x41, .byte 0] ∧
    (stepOn { s0 with cfg := { Config.t0 with busMayHang := true }, busDraws := [false, false, true] } [0x06]).rsp = [] := by
  decide
/-- The block waits, from reset, until something arrives. -/
theorem test_waits : step State.reset = .next State.reset := rfl
theorem test_withFetchWord : step (State.reset.withFetchWord 16 0x0A10) =
    .next { State.reset with rsp := [⟨.ok, [0]⟩] } := rfl

/-! ### The line syntax of R114 -/

theorem test_line_string : assembleLine "DISP_PUTS 0, \"A1\" ; text".toList =
    some ([0x04, 0, 2, 0x41, 0x31].map Input.byte) := by decide
theorem test_line_fields : assembleLine "ADC_REG 5, 1, 1, 4".toList = some ([0x20, 5, 5, 4].map Input.byte) := by decide
theorem test_line_number : assembleLine "KEY_CLASSIFY 0x1C8".toList = some ([0x15, 0xC8, 1].map Input.byte) := by decide
theorem test_line_char : assembleLine "DISP_PUTC 9, 'A'".toList = some ([0x03, 9, 0x41].map Input.byte) := by decide
theorem test_line_event : assembleLine "@TICK 0b11111011".toList = some [.tick 0xFB] ∧
    assembleLine "@ADC 300".toList = some [.adcDone 300] ∧ assembleLine "@RESET".toList = some [.reset] := by decide
theorem test_line_refused : assembleLine "DISP_PUTC 9".toList = none ∧ assembleLine "JUMP 1".toList = none ∧
    assembleLine "; only a comment".toList = some [] := by decide

/-! ### A state and operands for every statement that has hypotheses -/

/-- T0 with a bus that may hang. -/
def cHang : Config := { Config.t0 with busMayHang := true }

/-- A hung block of that configuration: the first event of a flush was the last. -/
def hungState : State := { State.reset with cfg := cHang, hung := true, bus := [.csLow] }

theorem witness_DecodeOfEncodeIsTheCommand : (Instr.dispPuts 6 [0x41, 0x31]).isCommand = true ∧
    (Instr.dispPuts 6 [0x41, 0x31]).wf Config.t0 = true ∧ (Instr.unknown 0x22).wf Config.t0 = true := by decide

theorem witness_DecodedCommandTakesItsOwnBytes :
    decode [0x05, 3, 1, 0x06] = .ok (.dispSym 3 true, [0x06]) := by decide

theorem witness_OperandBytesAreAssembled : ([] : List Byte).length = (0 : Byte).toNat ∧
    [(0x41 : Byte), 0x31].length = (2 : Byte).toNat := by decide

theorem witness_TruncatedCommandTakesNoStep : ∃ s : State, s.cfg.wf = true ∧ s.hung = false ∧
    (Instr.dispPutc 0 0x41).isCommand = true ∧ (Instr.dispPutc 0 0x41).wf s.cfg = true ∧ s.inputs = [] ∧
    2 < (encode (.dispPutc 0 0x41)).length ∧ s.rx = (encode (.dispPutc 0 0x41)).take 2 :=
  ⟨{ State.reset with rx := [0x03, 0] }, by decide⟩

/-- Both ends of each range of opcodes outside Table O. -/
theorem witness_UnknownOpcodeIsOneByteNoOp :
    (∀ op ∈ [(0x08 : Byte), 0x0F, 0x16, 0x1F, 0x22, 0xFF],
      0x08 ≤ op.toNat ∧ op.toNat ≤ 0x0F ∨ 0x16 ≤ op.toNat ∧ op.toNat ≤ 0x1F ∨ 0x22 ≤ op.toNat) ∧
    decode [0xEE, 0] = .ok (.unknown 0xEE, [0]) ∧ State.reset.hung = false := by decide

theorem witness_StepRunsTheDecodedCommand : ∃ s : State, s.cfg.wf = true ∧ s.hung = false ∧
    decode s.rx = .ok (.keyStatus 10, [0x13]) :=
  ⟨{ State.reset with rx := [0x10, 10, 0x13] }, by decide⟩

theorem witness_ArrivingBytesAreOneStep : ∃ s : State, s.cfg.wf = true ∧ s.hung = false ∧
    (Instr.adcReg 5 1 true 4).isCommand = true ∧ (Instr.adcReg 5 1 true 4).wf s.cfg = true ∧ s.rx = [] ∧
    s.inputs = (encode (.adcReg 5 1 true 4)).map Input.byte ++ [.tick 0xFF] :=
  ⟨{ State.reset with inputs := [.byte 0x20, .byte 5, .byte 5, .byte 4, .tick 0xFF] }, by decide⟩

theorem witness_EventIsServedBetweenCommandBytes : ∃ s : State, s.cfg.wf = true ∧ s.hung = false ∧
    (Instr.dispPutc 0 0x41).isCommand = true ∧ (Instr.dispPutc 0 0x41).wf s.cfg = true ∧
    1 < (encode (.dispPutc 0 0x41)).length ∧ s.rx = [] ∧ (Input.adcDone 7).event? = some (.adcDone 7) ∧
    s.inputs = ((encode (.dispPutc 0 0x41)).take 1).map Input.byte ++ .adcDone 7 :: [.byte 0, .byte 0x41] :=
  ⟨{ State.reset with inputs := [.byte 0x03, .adcDone 7, .byte 0, .byte 0x41] }, by decide⟩

theorem witness_HungBlockServesOnlyEvents : ∃ s u : State,
    s.cfg.wf = true ∧ s.hung = true ∧ s.inputs = [(0x06 : Byte)].map Input.byte ∧
    u.cfg.wf = true ∧ u.hung = true ∧ (Input.tick 0xFE).event? = some (.tick 0xFE) ∧
    u.inputs = [(0x06 : Byte)].map Input.byte ++ .tick 0xFE :: [.byte 0] :=
  ⟨{ hungState with inputs := [.byte 0x06] }, { hungState with inputs := [.byte 0x06, .tick 0xFE, .byte 0] }, by decide⟩

theorem witness_HungBlockAcceptsNoCommand : hungState.hung = true ∧ Instr.dispFlush.isCommand = true ∧
    isEvent (.tick 0) = true ∧ isEvent (.adcDone 0) = true := by decide

theorem witness_IllFormedConfigurationIsRefused : ({ Config.t0 with depth := 0 }).wf = false ∧ Config.t0.wf = true ∧
    charAddr Config.t0 7 13 = charAddr Config.t0 7 13 ∧ Config.t0.thresholds[2]? = some ⟨168, 0b100⟩ ∧
    Config.t0.thresholds[3]? = some ⟨0, 0⟩ := by decide

theorem witness_SegmentCountIsOneOfThree : Config.t0.wf = true ∧ { Config.t0 with segmentCount := 52 }.wf = true ∧
    { Config.t0 with segmentCount := 104 }.wf = true := by decide

/-- The first address outside DisplayMemory, and the last inside. -/
theorem witness_SegmentAddressIsItsLinearIndex : 192 ≤ (192 : SegmentAddress).toNat ∧
    (192 : SegmentAddress) ∈ { Config.t0 with iconMap := [192] }.iconMap ∧ (191 : SegmentAddress).toNat ≤ 191 := by
  decide

/-- A write over a word boundary, and one at the very end. -/
theorem witness_MemoryReadsAndWritesBits : 60 + 8 ≤ 192 ∧ 191 + 1 ≤ 192 ∧ Config.t0.wf = true ∧ 27 < Config.t0.numIcons := by
  decide

theorem witness_ChunkIsFiftyTwoConsecutiveBits : Config.t0.wf = true ∧ Config.t0.numChunks ≤ 3 ∧ 2 < Config.t0.numChunks ∧
    Config.t0.segmentCount = 156 ∧ Config.t0.segmentCount ≤ 156 := by decide

theorem witness_FrameBytesArePacked : 0 < 4 ∧ 3 < 4 := by decide

/-- The last transmitted bit, and the first that is not. -/
theorem witness_BitIsSentAtItsPlace : State.reset.cfg.wf = true ∧ 3 = State.reset.cfg.numChunks ∧ 155 < 192 ∧
    155 < State.reset.cfg.segmentCount ∧ 156 < 192 ∧ State.reset.cfg.segmentCount ≤ 156 := by decide

theorem witness_not_hung : State.reset.hung = false ∧ State.reset.cfg.busMayHang = false ∧
    State.reset.cfg.wf = true ∧ unknownOpcode 0x08 = true := by decide

theorem witness_NopOnlyResponds : State.reset.hung = false ∧ unknownOpcode 0xEE = true := by decide
theorem witness_FlushSendsEveryChunk : s0.hung = false ∧ s0.cfg.busMayHang = false := by decide
theorem witness_InitSendsFourResetFrames : s0.hung = false ∧ s0.cfg.busMayHang = false ∧ s0.cfg.wf = true := by decide
theorem witness_ClearZeroesAndFlushes : s0.hung = false ∧ s0.cfg.busMayHang = false := by decide

/-- Both ends of the legal operands, and each kind of operand out of range. -/
theorem witness_PutcWritesOneGlyph : s0.cfg.wf = true ∧ s0.hung = false ∧ s0.cfg.busMayHang = false ∧
    ((7 : Byte).toNat ≤ 7 ∧ 0x20 ≤ (0x7E : Byte).toNat ∧ (0x7E : Byte).toNat ≤ 0x7E) ∧
    ((0 : Byte).toNat ≤ 7 ∧ 0x20 ≤ (0x20 : Byte).toNat ∧ (0x20 : Byte).toNat ≤ 0x7E) ∧
    7 < (8 : Byte).toNat ∧ (0x1F : Byte).toNat < 0x20 ∧ 0x7E < (0x7F : Byte).toNat := by decide

/-- Off the right edge after two characters, and a whole string. -/
theorem witness_PutsCommitsUpToTheFirstError : s0.hung = false ∧ s0.cfg.busMayHang = false ∧
    2 ≤ [(0x41 : Byte), 0x31, 0x41].length ∧
    (∀ j x, j < 2 → [(0x41 : Byte), 0x31, 0x41][j]? = some x →
      (6 : Byte).toNat + j ≤ 7 ∧ 0x20 ≤ x.toNat ∧ x.toNat ≤ 0x7E) ∧
    (∀ x, [(0x41 : Byte), 0x31, 0x41][2]? = some x → 7 < (6 : Byte).toNat + 2 ∨ x.toNat < 0x20 ∨ 0x7E < x.toNat) ∧
    (∀ x, [(0x41 : Byte), 0x31][2]? = some x → 7 < (0 : Byte).toNat + 2 ∨ x.toNat < 0x20 ∨ 0x7E < x.toNat) ∧
    (2 : Byte).toNat = [(0x41 : Byte), 0x31].length := by
  refine ⟨rfl, rfl, by decide, ?_, by decide, by decide, by decide⟩
  intro j x hj hx
  match j, hj with
  | 0, _ => simp at hx; subst hx; decide
  | 1, _ => simp at hx; subst hx; decide

theorem witness_SymWritesOneBit : s0.cfg.wf = true ∧ s0.hung = false ∧ s0.cfg.busMayHang = false ∧
    (27 : Byte).toNat < s0.cfg.numIcons ∧ s0.cfg.numIcons ≤ (28 : Byte).toNat := by decide

theorem witness_SettplWritesTheTemplate : s0.hung = false := rfl

theorem witness_EncoderOnBitZero : ∃ s : State, s.cfg.wf = true ∧ s.hung = false ∧ s.cfg.busMayHang = false ∧
    s.mem = ⟨1, 0, 0⟩ := ⟨{ s0 with mem := ⟨1, 0, 0⟩ }, by decide⟩

theorem witness_DisplayShowsMemory : ∃ t : State, s0.cfg.wf = true ∧ Instr.dispFlush.isCommand = true ∧
    Instr.dispFlush ≠ .dispInit ∧ exec .dispFlush s0 = .next t ∧ t.hung = false ∧ (t.mem ≠ s0.mem ∨ t.bus ≠ s0.bus) :=
  ⟨nextOf (exec .dispFlush s0), by decide, rfl, by decide, rfl, by decide, by decide⟩

/-- A flush that stops at its third event, and one that does not stop. -/
theorem witness_HangCutsTheTransfer : ∃ s u : State, s.hung = false ∧ s.cfg.busMayHang = true ∧
    flushOf .dispFlush s = some (3, s, .ok) ∧ stopsWithin s.busDraws 33 = true ∧
    u.hung = false ∧ u.cfg.busMayHang = true ∧ flushOf .dispFlush u = some (3, u, .ok) ∧
    stopsWithin u.busDraws 33 = false :=
  ⟨{ s0 with cfg := cHang, busDraws := [false, false, true] }, { s0 with cfg := cHang }, by decide⟩

theorem witness_TickTakesOneSample : s0.ring ≠ [] := by decide

theorem witness_StableIsUnanimityOverTheWindow : s0.ring.length = s0.cfg.depth ∧ s0.ridx < s0.cfg.depth ∧
    (List.replicate 10 0xFE).length = s0.cfg.depth ∧ 7 < s0.cfg.numBtn := by decide

/-- The debouncer after reset keeps its invariant; a held button is let go. -/
theorem witness_ReleaseIsNotDebounced : DebounceInv s0 ∧ 0 < s0.cfg.numBtn ∧ Nat.testBit 0xFF 0 = true := by
  refine ⟨⟨by decide, by decide, by decide, by decide, by decide⟩, by decide, by decide⟩

theorem witness_HeldButtonFiresOnePressEdge : 1 ≤ s0.cfg.depth ∧ s0.ring = List.replicate s0.cfg.depth 0 ∧
    s0.ridx < s0.cfg.depth ∧ s0.stable = 0 ∧ 0 < s0.cfg.numBtn ∧ Nat.testBit 0xFE 0 = false ∧ 1 ≤ 10 := by decide

theorem witness_EdgeViewsExcludeEachOther : edges.stable < 2 ^ edges.cfg.kw ∧ edges.changed < 2 ^ edges.cfg.kw := by
  decide

/-- Both sides of the range of keys. -/
theorem witness_KeyQueries : edges.hung = false ∧ (10 : Byte).toNat < edges.cfg.kw ∧ ¬ (11 : Byte).toNat < edges.cfg.kw := by
  decide

theorem witness_KeyVectorsAreReadWhole : edges.hung = false ∧ edges.stable < 2 ^ edges.cfg.kw := by decide

/-- A value on a breakpoint, and one below all of a table that does not end in 0. -/
theorem witness_ClassifyFindsTheBucket : Config.t0.wf = true ∧ Config.t0.thresholds[1]? = some ⟨185, 0b010⟩ ∧
    (185 : BitVec 10) ≤ 185 ∧ Config.t0.thresholds[1 - 1]? = some ⟨224, 0b001⟩ ∧ (185 : Reading) < 224 ∧
    { Config.t0 with thresholds := [⟨224, 1⟩, ⟨185, 2⟩] }.wf = true ∧
    (∀ e ∈ { Config.t0 with thresholds := [⟨224, 1⟩, ⟨185, 2⟩] }.thresholds, (184 : Reading) < e.thresh) := by decide

theorem witness_KeyClassifyAnswersTheMask : s0.cfg.wf = true ∧ s0.hung = false ∧
    (456 : Reading).toNat = (0xFD : Byte).toNat % 4 * 256 + (200 : Byte).toNat := by decide

theorem witness_AdcRegAddsOneChannel : mux1.hung = false ∧ mux1.nchan < 10 ∧ (2 : Byte) ≠ 0 ∧
    10 ≤ { mux1 with nchan := 10 }.nchan ∧ (0 : Byte) = 0 := by decide

/-- The records of `mux1` beyond the first are the reset records. -/
theorem mux1_chanAt_ge (i : Nat) (h : 1 ≤ i) : mux1.chanAt i = Channel.zero := by
  obtain ⟨k, rfl⟩ : ∃ k, i = k + 1 := ⟨i - 1, by omega⟩
  simp only [mux1, State.chanAt, List.getD_eq_getElem?_getD, List.getElem?_cons_succ, List.getElem?_replicate]
  split <;> rfl

/-- A running sampler between two samples of its one channel. -/
theorem mux1_inv : MuxInv mux1 where
  chan_length := by decide
  nchan_le := by decide
  running_iff := by decide
  cur_lt := by decide
  cnt_lt := by decide
  acc_le := by decide
  idle_zero := by decide
  registered := by
    intro i h
    have : i = 0 := by simp [mux1] at h; omega
    subst this
    decide
  unused := mux1_chanAt_ge

/-- The idle sampler after reset. -/
theorem s0_mux : MuxInv s0 where
  chan_length := by decide
  nchan_le := by decide
  running_iff := by decide
  cur_lt := by decide
  cnt_lt := by decide
  acc_le := by decide
  idle_zero := by decide
  registered := by intro i h; simp [s0, State.reset, State.initial] at h
  unused := by
    intro i _
    simp only [s0, State.reset, State.initial, State.chanAt, List.getD_eq_getElem?_getD, List.getElem?_replicate]
    split <;> rfl

/-- The same sampler after its first sample: the next one publishes. -/
theorem mux1_last_inv : MuxInv { mux1 with acc := 255, cnt := 1 } where
  chan_length := by decide
  nchan_le := by decide
  running_iff := by decide
  cur_lt := by decide
  cnt_lt := by decide
  acc_le := by decide
  idle_zero := by decide
  registered := mux1_inv.registered
  unused := mux1_inv.unused

/-- Idle, accumulating, and publishing. -/
theorem witness_AdcDoneAccumulatesOrPublishes :
    (MuxInv s0 ∧ s0.running = false) ∧
    (MuxInv mux1 ∧ mux1.running = true ∧ mux1.cnt.toNat + 1 < (mux1.chanAt mux1.cur).ns.toNat) ∧
    (MuxInv { mux1 with acc := 255, cnt := 1 } ∧
      { mux1 with acc := 255, cnt := 1 }.cnt.toNat + 1 = (mux1.chanAt mux1.cur).ns.toNat) :=
  ⟨⟨s0_mux, rfl⟩, ⟨mux1_inv, rfl, by decide⟩, mux1_last_inv, by decide⟩

theorem witness_GroupPublishesTheMean : MuxInv mux1 ∧ mux1.running = true ∧ mux1.cnt = 0 ∧
    [(1023 : Reading), 257].length = (mux1.chanAt mux1.cur).ns.toNat := ⟨mux1_inv, rfl, rfl, by decide⟩

theorem witness_FullRoundPublishesEveryMean : MuxInv mux1 ∧ mux1.running = true ∧ mux1.cur = 0 ∧ mux1.cnt = 0 ∧
    [[(1023 : Reading), 257]].length = mux1.nchan ∧
    ∀ i g, [[(1023 : Reading), 257]][i]? = some g → g.length = (mux1.chanAt i).ns.toNat := by
  refine ⟨mux1_inv, rfl, rfl, rfl, rfl, ?_⟩
  intro i g h
  match i with
  | 0 => simp at h; subst h; decide
  | _ + 1 => simp at h

theorem witness_AdcGetReadsAndClearsReady : mux1.hung = false ∧
    ((0 : Byte).toNat < mux1.nchan ∧ (mux1.chanAt 0).ready = true) ∧
    ({ mux1 with chan := ⟨7, 0, true, 2, 300, false⟩ :: [] }.chanAt 0).ready = false ∧
    mux1.nchan ≤ (1 : Byte).toNat := by decide

/-- Between the two reads stands an ADC_DONE that only accumulates. -/
def betweenReads : List Instr := [.nop, .adcDone 7, .tick 0xFF]

theorem witness_SecondAdcGetHasNoData : ∃ t : State, MuxInv mux1 ∧ (0 : Byte).toNat < mux1.nchan ∧
    (mux1.chanAt (0 : Byte).toNat).ready = true ∧ t.hung = false ∧
    (∀ (pre post : List Instr) (i : Instr) (u : State), betweenReads = pre ++ i :: post →
      execAll (.adcGet 0 :: pre) mux1 = .next u →
      i ≠ .reset ∧ ∀ r, i = .adcDone r → publishTarget u ≠ some (0 : Byte).toNat) ∧
    execAll (.adcGet 0 :: betweenReads) mux1 = .next t := by
  refine ⟨nextOf (execAll (.adcGet 0 :: betweenReads) mux1), mux1_inv, by decide, by decide, by decide, ?_, rfl⟩
  intro pre post i u e h
  match pre, e with
  | [], e => cases e; simp
  | [_], e =>
    cases e
    obtain rfl : u = nextOf (execAll [.adcGet 0, .nop] mux1) := by rw [h]; rfl
    exact ⟨by simp, fun _ _ => by decide⟩
  | [_, _], e => cases e; simp
  | _ :: _ :: _ :: pre, e => cases pre <;> cases e

theorem witness_ResetAbandonsTheCommandInProgress : ∃ s : State, s.cfg.wf = true ∧ Instr.keyState.isCommand = true ∧
    Instr.keyState.wf s.cfg = true ∧ s.inputs = (encode .keyState).map Input.byte ++ [] :=
  ⟨{ hungState with rx := [0x03], inputs := [.byte 0x13] }, by decide⟩

/-- A block with a flush waiting at its port. -/
def flushing : State := { State.reset with inputs := [.byte 0x06] }

theorem flushing_inv : Inv flushing where
  cfg_wf := by decide
  display :=
    { initLeft_le := by decide
      trace_whole := fun _ => ⟨[], rfl⟩
      trace_cut := fun h => nomatch h
      hung_only := fun h => nomatch h }
  debounce := ⟨by decide, by decide, by decide, by decide, by decide⟩
  mux :=
    { chan_length := by decide
      nchan_le := by decide
      running_iff := by decide
      cur_lt := by decide
      cnt_lt := by decide
      acc_le := by decide
      idle_zero := by decide
      registered := by intro i h; simp [flushing, State.reset, State.initial] at h
      unused := s0_mux.unused }

theorem witness_EveryStepKeepsTheInvariant : ∃ t : State, Inv flushing ∧ step flushing = .next t :=
  ⟨nextOf (step flushing), flushing_inv, rfl⟩

theorem witness_EveryStepAnswersANextState : flushing.cfg.wf = true := by decide

/-- The writers of the channel table: the first ADC_REG, an ADC_DONE that publishes, an ADC_GET; and a
form that sends no frame beside one that does. -/
theorem witness_OnlyTheWritersWrite : ∃ t u v : State,
    exec (.adcReg 5 1 true 4) s0 = .next t ∧ (t.chanAt s0.nchan).ns ≠ (s0.chanAt s0.nchan).ns ∧
    exec (.adcDone 9) { mux1 with cnt := 1 } = .next u ∧ publishTarget { mux1 with cnt := 1 } = some 0 ∧
    (u.chanAt 0).result ≠ (mux1.chanAt 0).result ∧
    exec (.adcGet 0) mux1 = .next v ∧ (v.chanAt 0).ready ≠ (mux1.chanAt 0).ready ∧
    flushOf .nop s0 = none ∧ flushOf (.dispPutc 8 0x41) s0 = none ∧ flushOf .dispFlush s0 ≠ none :=
  ⟨nextOf (exec (.adcReg 5 1 true 4) s0), nextOf (exec (.adcDone 9) { mux1 with cnt := 1 }),
    nextOf (exec (.adcGet 0) mux1), rfl, by decide, rfl, by decide, by decide, rfl, by decide, rfl, rfl, by decide⟩

/-- A command that completes, and an event. -/
theorem witness_OneResponsePerCommand : ∃ t u : State,
    (exec .keyState s0 = .next t ∧ Instr.keyState.isCommand = true ∧ s0.hung = false ∧ t.hung = false) ∧
    exec (.tick 0xFF) s0 = .next u ∧ (Instr.tick 0xFF).isCommand = false :=
  ⟨nextOf (exec .keyState s0), nextOf (exec (.tick 0xFF) s0), ⟨rfl, rfl, rfl, rfl⟩, rfl, rfl⟩

theorem witness_ErrorLeavesTheStateAlone : ∃ t : State, (Instr.keyStatus 11).isCommand = true ∧
    (∀ p l, Instr.keyStatus 11 ≠ .dispPuts p l) ∧ exec (.keyStatus 11) s0 = .next t ∧
    t.rsp = s0.rsp ++ [⟨.cfgErr, []⟩] ∧ Status.cfgErr ≠ .ok :=
  ⟨nextOf (exec (.keyStatus 11) s0), rfl, by simp, rfl, by decide, by decide⟩

theorem witness_EventsAndDisplayCommandsCommute : isDisplay (.dispPutc 0 0x41) = true ∧ isEvent (.tick 0xFE) = true := by
  decide

/-- Each of the three hypotheses, any of which is enough. -/
theorem witness_TickAndAdcDoneCommute : s0.running = false ∧
    { mux1 with cfg := { Config.t0 with keyChannel := 1 } }.cur ≠ { Config.t0 with keyChannel := 1 }.keyChannel ∧
    mux1.cnt + 1 ≠ (mux1.chanAt mux1.cur).ns := by decide

theorem s0_display : DisplayInv s0 where
  initLeft_le := by decide
  trace_whole := fun _ => ⟨[], rfl⟩
  trace_cut := fun h => nomatch h
  hung_only := fun h => nomatch h

theorem witness_ChipSelectIsHighBetweenSteps : DisplayInv s0 ∧ s0.hung = false := ⟨s0_display, rfl⟩

end Sys2Proof.Tests
end

