-- ==== Sys2Proof/Proofs/Scope.lean ====
section
/-! The scope of the block (spec/00_scope.md): which values of SEGMENT_COUNT R9 admits, and what the
memory primitives of R12 read and write. -/

namespace Sys2Proof

/-- Up to 192 bits, R8 (a) and (b) leave three multiples of 52; R8 (c) then asks nothing more. -/
theorem Config.wfChunks_iff (c : Config) :
    c.wfChunks = true ↔ c.segmentCount = 52 ∨ c.segmentCount = 104 ∨ c.segmentCount = 156 := by
  simp only [wfChunks, Bool.and_eq_true, decide_eq_true_eq]
  simp only [numChunks, Param.chunkBits, Param.memBits, Param.ddBits]
  omega

/-- No clause of R8 but (a) to (c) reads SEGMENT_COUNT. -/
theorem Config.wf_withSegmentCount_iff {c : Config} (h : c.wf = true) (n : Nat) :
    { c with segmentCount := n }.wf = true ↔ { c with segmentCount := n }.wfChunks = true := by
  simp only [wf, Bool.and_eq_true] at h ⊢
  obtain ⟨⟨⟨⟨_, hsegments⟩, hthresholds⟩, hchannel⟩, hdepth⟩ := h
  exact ⟨fun ⟨⟨⟨⟨hchunks, _⟩, _⟩, _⟩, _⟩ => hchunks,
    fun hchunks => ⟨⟨⟨⟨hchunks, hsegments⟩, hthresholds⟩, hchannel⟩, hdepth⟩⟩

/-- Settles O13: a change of SEGMENT_COUNT concerns the chunk clauses alone, and those admit three values. -/
theorem segmentCountIsOneOfThree : Obligations.SegmentCountIsOneOfThree := by
  intro c n h
  rw [Config.wf_withSegmentCount_iff h, Config.wfChunks_iff]

end Sys2Proof

namespace Sys2Proof.Machine

/-- A single-bit set or clear is MemWrite(L, 1, b) (R12). -/
theorem DisplayMemory.setBit_eq_write (m : DisplayMemory) (L : Nat) (b : Bool) :
    m.setBit L b = m.write L 1 (BitVec.ofBool b) := by
  simp [write, List.range_succ]

/-- Settles O15: reads and writes bit by bit, and the addresses of the two tables by R8 (d). -/
theorem memoryReadsAndWritesBits : Obligations.MemoryReadsAndWritesBits := by
  refine ⟨fun m L n v h => ⟨fun j hj => ?read, fun j hj => ?written, fun K hK => ?kept⟩,
    DisplayMemory.setBit_eq_write, fun c hc => ⟨fun pos i hpos hi => ?address, fun _ => iconAddr_lt hc⟩⟩
  case read => rw [DisplayMemory.read_getLsbD, decide_eq_true hj, Bool.true_and]
  case written => rw [m.bit_write L n v h, if_pos (by omega), Nat.add_sub_cancel_left]
  case kept => rw [m.bit_write L n v h, if_neg (by omega)]
  case address =>
    obtain ⟨hinside, _⟩ := charAddr_spec hc hpos
    exact hinside i hi

end Sys2Proof.Machine
end

