-- ==== Sys2Proof/Proofs/Chunks.lean ====
section
/-! The chunks of DisplayMemory (spec/20_memory.md R62): where a read of the memory falls in its 64-bit
words, and which bits and words a chunk is made of. -/

namespace Sys2Proof.Machine

/-! ### A read in terms of the words (R61) -/

theorem DisplayMemory.bit_of_word (m : DisplayMemory) (q : Nat) {r : Nat} (hr : r < 64) :
    m.bit (64 * q + r) = (m.word q).getLsbD r := by
  rw [bit, Nat.mul_add_div (by decide), Nat.div_eq_of_lt hr, Nat.add_zero, Nat.mul_add_mod, Nat.mod_eq_of_lt hr]

/-- A read that stays inside word `q`. -/
theorem DisplayMemory.read_within_word (m : DisplayMemory) (q : Nat) {r n : Nat} (h : r + n ≤ 64) :
    m.read (64 * q + r) n = (m.word q).extractLsb' r n := by
  refine BitVec.eq_of_getLsbD_eq fun j hj => ?_
  have inside : r + j < 64 := by omega
  rw [read_getLsbD, BitVec.getLsbD_extractLsb', Nat.add_assoc, m.bit_of_word q inside]

/-- A read over the boundary of words `q` and `q + 1`: the low bits of the value are the top of word `q`,
the high bits the bottom of word `q + 1`. -/
theorem DisplayMemory.read_across_words (m : DisplayMemory) (q : Nat) {lo hi : Nat} (hlo : lo ≤ 64)
    (hhi : hi ≤ 64) :
    m.read (64 * q + (64 - lo)) (hi + lo) =
      (m.word (q + 1)).extractLsb' 0 hi ++ (m.word q).extractLsb' (64 - lo) lo := by
  refine BitVec.eq_of_getLsbD_eq fun j hj => ?_
  rw [read_getLsbD, decide_eq_true hj, Bool.true_and, BitVec.getLsbD_append]
  by_cases hlow : j < lo
  · have inside : 64 - lo + j < 64 := by omega
    rw [if_pos hlow, BitVec.getLsbD_extractLsb', decide_eq_true hlow, Bool.true_and, Nat.add_assoc,
      m.bit_of_word q inside]
  · have hhigh : j - lo < hi := by omega
    have next : 64 * q + (64 - lo) + j = 64 * (q + 1) + (j - lo) := by omega
    rw [if_neg hlow, BitVec.getLsbD_extractLsb', decide_eq_true hhigh, Bool.true_and, Nat.zero_add, next,
      m.bit_of_word (q + 1) (by omega)]

/-! ### Chunks (R62) -/

theorem chunk_of_lt {c : Config} {i : Nat} (h : i < c.numChunks) (m : DisplayMemory) :
    chunk c m i = m.read (52 * i) 52 := if_pos h

theorem chunk_of_ge {c : Config} {i : Nat} (h : c.numChunks ≤ i) (m : DisplayMemory) :
    chunk c m i = 0 := if_neg (Nat.not_lt.mpr h)

/-- At SEGMENT_COUNT = 156 the chunks start at bits 0, 52 = 64 - 12 and 104 = 128 - 24: the first lies in
word 0, the others each cross a boundary. -/
theorem chunks_of_segmentCount_156 {c : Config} (h : c.segmentCount = 156) (m : DisplayMemory) :
    chunk c m 0 = m.w0.extractLsb' 0 52 ∧
    chunk c m 1 = m.w1.extractLsb' 0 40 ++ m.w0.extractLsb' 52 12 ∧
    chunk c m 2 = m.w2.extractLsb' 0 28 ++ m.w1.extractLsb' 40 24 := by
  have three : c.numChunks = 3 := by simp [Config.numChunks, Param.chunkBits, h]
  have chunk_eq_read (i : Nat) (hi : i < 3) : chunk c m i = m.read (52 * i) 52 := chunk_of_lt (three ▸ hi) m
  refine ⟨?_, ?_, ?_⟩
  · exact (chunk_eq_read 0 (by decide)).trans (m.read_within_word 0 (r := 0) (n := 52) (by decide))
  · exact (chunk_eq_read 1 (by decide)).trans (m.read_across_words 0 (lo := 12) (hi := 40) (by decide) (by decide))
  · exact (chunk_eq_read 2 (by decide)).trans (m.read_across_words 1 (lo := 24) (hi := 28) (by decide) (by decide))

/-- Settles O16: bits by `chunk_getLsbD`, the end of the last chunk by SEGMENT_COUNT = 52 NUM_CHUNKS, and
the words by where each chunk starts. -/
theorem chunkIsFiftyTwoConsecutiveBits : Obligations.ChunkIsFiftyTwoConsecutiveBits := by
  refine fun c m i hc => ⟨chunk_getLsbD c m i, fun hi => chunk_of_ge hi m, fun L k hL hi hk => ?beyond,
    fun h156 => chunks_of_segmentCount_156 h156 m⟩
  case beyond =>
    obtain ⟨hcount, _, _⟩ := numChunks_spec hc
    omega

end Sys2Proof.Machine
end

section
/-! The encodings of spec/30_encoding.md: how operand bytes become operands (R93), the unknown opcodes
(R96), the stored SegmentAddress (R111), and the frame word with its eight bytes (R105, R106). -/

namespace Sys2Proof

/-! ### The formats of Table F (R91, R92) -/

theorem decodeOp0_eq_ok {f i : Instr} {t rest : List Byte} :
    decodeOp0 f t = .ok (i, rest) ↔ t = rest ∧ f = i := by
  simp [decodeOp0, and_comm]

theorem decodeOp1_eq_ok {f : Byte → Instr} {i : Instr} {t rest : List Byte} :
    decodeOp1 f t = .ok (i, rest) ↔ ∃ a, t = a :: rest ∧ f a = i := by
  cases t <;> simp [decodeOp1, and_comm]

theorem decodeOp2_eq_ok {f : Byte → Byte → Instr} {i : Instr} {t rest : List Byte} :
    decodeOp2 f t = .ok (i, rest) ↔ ∃ a b, t = a :: b :: rest ∧ f a b = i := by
  match t with
  | [] | [_] => simp [decodeOp2]
  | a :: b :: t => simp [decodeOp2, and_comm]

theorem decodeOp3_eq_ok {f : Byte → Byte → Byte → Instr} {i : Instr} {t rest : List Byte} :
    decodeOp3 f t = .ok (i, rest) ↔ ∃ a b c, t = a :: b :: c :: rest ∧ f a b c = i := by
  match t with
  | [] | [_] | [_, _] => simp [decodeOp3]
  | a :: b :: c :: t => simp [decodeOp3, and_comm]

/-- The third byte of format OPS says how many characters follow it (R92). -/
theorem decodeOps_eq_ok {f : Byte → List Byte → Instr} {i : Instr} {t rest : List Byte} :
    decodeOps f t = .ok (i, rest) ↔
      ∃ pos len chrs, t = pos :: len :: (chrs ++ rest) ∧ chrs.length = len.toNat ∧ f pos chrs = i := by
  match t with
  | [] | [_] => simp [decodeOps]
  | pos :: len :: t =>
    constructor
    · intro h
      simp only [decodeOps] at h
      split at h
      next enough =>
        cases h
        exact ⟨pos, len, t.take len.toNat, by simp, by simpa using enough, rfl⟩
      next => cases h
    · rintro ⟨_, _, chrs, e, hlen, rfl⟩
      cases e
      simp [decodeOps, ← hlen]

/-! ### The operand fields (R93) -/

/-- `ctl`: cu, p[3:0], dr, sc and bu from its low bit on. -/
theorem settplOf_eq (ctl : Byte) : settplOf ctl =
    .dispSettpl (ctl.toNat.testBit 0) (BitVec.ofNat 4 (ctl.toNat / 2)) (ctl.toNat.testBit 5)
      (ctl.toNat.testBit 6) (ctl.toNat.testBit 7) := rfl

theorem symOf_eq (sym en : Byte) : symOf sym en = .dispSym sym (en.toNat.testBit 0) := rfl

/-- v is b[1:0] above a: the shifted high part has no bit in common with `a`, so their OR is their sum. -/
theorem classifyOf_eq (a b : Byte) :
    classifyOf a b = .keyClassify (BitVec.ofNat 10 (b.toNat % 4 * 256 + a.toNat)) := by
  have ha := a.isLt
  have low : (a.setWidth 10).toNat = a.toNat := BitVec.toNat_setWidth_of_le (by decide)
  have high : ((b.extractLsb' 0 2).setWidth 10 <<< 8).toNat = (b.toNat % 4) <<< 8 := by
    simp only [BitVec.toNat_shiftLeft, BitVec.toNat_setWidth, BitVec.extractLsb'_toNat, Nat.shiftRight_zero]
    omega
  refine congrArg Instr.keyClassify (BitVec.eq_of_toNat_eq ?_)
  rw [BitVec.toNat_or, high, low, ← Nat.shiftLeft_add_eq_or_of_lt ha, Nat.shiftLeft_eq, BitVec.toNat_ofNat]
  omega

/-- ref = cfg[1:0], res = cfg[2]; bits 7..3 are ignored. -/
theorem regOf_eq (sel cfg ns : Byte) : regOf sel cfg ns =
    .adcReg sel (BitVec.ofNat 2 (cfg.toNat % 4)) (cfg.toNat.testBit 2) ns := by
  have low : cfg.extractLsb' 0 2 = BitVec.ofNat 2 (cfg.toNat % 4) := by
    apply BitVec.eq_of_toNat_eq
    simp
  rw [regOf, low]
  rfl

/-- Settles O3: each opcode selects its format, and the operand bytes go through its field split. -/
theorem operandBytesAreAssembled : Obligations.OperandBytesAreAssembled := by
  intro a b c rest
  refine ⟨rfl, fun chrs hlen => ?string, ?sym, ?template, rfl, rfl, rfl, ?reading, ?channel, rfl⟩
  case string => exact decodeOps_eq_ok.mpr ⟨a, b, chrs, rfl, hlen, rfl⟩
  case sym => exact decodeOp2_eq_ok.mpr ⟨a, b, rfl, symOf_eq a b⟩
  case template => exact decodeOp1_eq_ok.mpr ⟨a, rfl, settplOf_eq a⟩
  case reading => exact decodeOp2_eq_ok.mpr ⟨a, b, rfl, classifyOf_eq a b⟩
  case channel => exact decodeOp3_eq_ok.mpr ⟨a, b, c, rfl, regOf_eq a b c⟩

/-! ### The opcodes outside Table O (R96) -/

theorem unknownOpcode_iff (op : Byte) : unknownOpcode op = true ↔
    0x08 ≤ op.toNat ∧ op.toNat ≤ 0x0F ∨ 0x16 ≤ op.toNat ∧ op.toNat ≤ 0x1F ∨ 0x22 ≤ op.toNat := by
  simp [unknownOpcode, or_assoc]

/-- Only the last arm of the decoder answers an unknown opcode, and it takes the bytes that no row of
Table O takes. -/
theorem decode_cons_eq_unknown_iff {b op : Byte} {t rest : List Byte} :
    decode (b :: t) = .ok (.unknown op, rest) ↔ unknownOpcode b = true ∧ b = op ∧ t = rest := by
  simp only [decode]
  split
  case h_17 =>
    have outside : unknownOpcode b = true := by
      rw [unknownOpcode_iff]
      simp only [imp_false] at *
      omega
    simp [decodeOp0_eq_ok, outside, and_comm]
  all_goals
    next row =>
      simp [unknownOpcode_iff, row, decodeOp0_eq_ok, decodeOp1_eq_ok, decodeOp2_eq_ok, decodeOp3_eq_ok,
        decodeOps_eq_ok, settplOf_eq, symOf_eq, classifyOf_eq, regOf_eq]

end Sys2Proof

namespace Sys2Proof.Machine

/-- R144: the whole effect of an unknown opcode is its response. -/
theorem exec_unknown_of_not_hung (op : Byte) {s : State} (h : s.hung = false) :
    exec (.unknown op) s = .next (answered .ok [] s) := by
  have arm : exec (.unknown op) s = command (respond .ok []) s := rfl
  rw [arm, command_of_not_hung h, respond_of_not_hung h]

/-- Settles O5: the last arm of the decoder, read in both directions, and the response alone as the effect. -/
theorem unknownOpcodeIsOneByteNoOp : Obligations.UnknownOpcodeIsOneByteNoOp := by
  refine ⟨fun op rest h => ?decodes, fun bytes op rest h => ?only, fun op s h => exec_unknown_of_not_hung op h⟩
  case decodes => exact decode_cons_eq_unknown_iff.mpr ⟨(unknownOpcode_iff op).mpr h, rfl, rfl⟩
  case only =>
    cases bytes with
    | nil => cases h
    | cons b t =>
      obtain ⟨outside, rfl, rfl⟩ := decode_cons_eq_unknown_iff.mp h
      exact ⟨rfl, (unknownOpcode_iff b).mp outside⟩

/-! ### The stored SegmentAddress (R111) -/

theorem wordIndex_toNat (a : SegmentAddress) : (wordIndex a).toNat = a.toNat / 64 := by
  have := a.isLt
  simp only [wordIndex, BitVec.extractLsb'_toNat, Nat.shiftRight_eq_div_pow]
  omega

theorem wordIndex_append_bitIndex (a : SegmentAddress) : wordIndex a ++ bitIndex a = a := by
  apply BitVec.eq_of_toNat_eq
  rw [BitVec.toNat_append, ← Nat.shiftLeft_add_eq_or_of_lt (bitIndex a).isLt, Nat.shiftLeft_eq, Nat.mul_comm]
  exact linearIndex_eq_toNat a

/-- R8 (d): every address of the two tables is inside DisplayMemory. -/
theorem address_lt_of_wf {c : Config} (h : c.wf = true) {a : SegmentAddress}
    (ha : a ∈ c.iconMap ∨ ∃ row ∈ c.charMap, a ∈ row) : a.toNat < 192 := by
  simp only [Config.wf, Config.wfSegments, Bool.and_eq_true, List.all_eq_true, decide_eq_true_eq] at h
  obtain ⟨⟨⟨⟨_, ⟨⟨_, hrows⟩, hicons⟩, _⟩, _⟩, _⟩, _⟩ := h
  have inside : SegmentAddress.wf a = true := by
    rcases ha with hicon | ⟨row, hrow, hmem⟩
    · exact hicons a hicon
    · obtain ⟨⟨_, haddrs⟩, _⟩ := hrows row hrow
      exact haddrs a hmem
  exact of_decide_eq_true inside

/-- Settles O14: the two fields side by side are the stored byte, and R8 (d) keeps a table below 192. -/
theorem segmentAddressIsItsLinearIndex : Obligations.SegmentAddressIsItsLinearIndex := by
  refine fun a => ⟨linearIndex_eq_toNat a, rfl, (wordIndex_append_bitIndex a).symm, ?_, fun hout c ha => ?_⟩
  · rw [wordIndex_toNat]
    omega
  · refine Bool.eq_false_iff.mpr fun hwf => ?_
    have := address_lt_of_wf hwf ha
    omega

/-! ### The frame word and its bytes (R105, R106) -/

/-- `F` is the number `f`, and the fields put into it so far end below bit `k`. -/
def FilledTo (k : Nat) (F : FrameWord) (f : Nat) : Prop := F.toNat = f ∧ f < 2 ^ k

/-- The payload stands at bit 0; F[53:52] is reserved (R105). -/
theorem filledTo_data (data : BitVec 52) : FilledTo 54 (data.setWidth 64 <<< 0) data.toNat := by
  have hdata := data.isLt
  refine ⟨?_, by omega⟩
  rw [BitVec.shiftLeft_zero]
  exact BitVec.toNat_setWidth_of_le (by decide)

/-- A field ORed in above every bit already set is added. -/
theorem FilledTo.or_field {k n f : Nat} {F : FrameWord} (h : FilledTo k F f) (v : BitVec n) (hk : k + n ≤ 64) :
    FilledTo (k + n) (F ||| (v.setWidth 64 <<< k)) (f + 2 ^ k * v.toNat) := by
  obtain ⟨rfl, hF⟩ := h
  have hv : 2 ^ k * v.toNat + 2 ^ k ≤ 2 ^ (k + n) :=
    calc 2 ^ k * v.toNat + 2 ^ k = 2 ^ k * (v.toNat + 1) := (Nat.mul_succ _ _).symm
      _ ≤ 2 ^ k * 2 ^ n := Nat.mul_le_mul_left _ v.isLt
      _ = 2 ^ (k + n) := (pow_add 2 k n).symm
  have h64 : 2 ^ (k + n) ≤ 2 ^ 64 := Nat.pow_le_pow_right (by decide) hk
  have shifted : (v.setWidth 64 <<< k).toNat = 2 ^ k * v.toNat := by
    rw [BitVec.toNat_shiftLeft, BitVec.toNat_setWidth_of_le (by omega), Nat.shiftLeft_eq, Nat.mul_comm]
    exact Nat.mod_eq_of_lt (by have := Nat.two_pow_pos k; omega)
  refine ⟨?_, by omega⟩
  rw [BitVec.toNat_or, shifted, Nat.or_comm, ← Nat.two_pow_add_eq_or_of_lt hF, Nat.add_comm]

/-- The fields of Table L, from the low end up, each begin where the one before ends. -/
theorem packFrame_toNat (data : BitVec 52) (t : Template) (dr : Bool) {i : Nat} (hi : i < 4) :
    (packFrame data t dr i).toNat =
      data.toNat + 2 ^ 54 * t.cu.toNat + 2 ^ 55 * t.p.toNat + 2 ^ 59 * dr.toNat
        + 2 ^ 60 * t.sc.toNat + 2 ^ 61 * t.bu.toNat + 2 ^ 62 * i := by
  have withCu := (filledTo_data data).or_field (BitVec.ofBool t.cu) (by decide)
  have withP := withCu.or_field t.p (by decide)
  have withDr := withP.or_field (BitVec.ofBool dr) (by decide)
  have withSc := withDr.or_field (BitVec.ofBool t.sc) (by decide)
  have withBu := withSc.or_field (BitVec.ofBool t.bu) (by decide)
  obtain ⟨hsum, _⟩ := withBu.or_field (BitVec.ofNat 2 i) (by decide)
  have hdd : (BitVec.ofNat 2 i).toNat = i := Nat.mod_eq_of_lt hi
  simp only [BitVec.toNat_ofBool, hdd] at hsum
  exact hsum

theorem frameBytes_toNat (F : FrameWord) :
    (frameBytes F).map BitVec.toNat = (List.range 8).map fun j => F.toNat / 2 ^ (8 * j) % 256 := by
  simp [frameBytes, Function.comp_def, Nat.shiftRight_eq_div_pow]

/-- Settles O17: the sum of `packFrame_toNat`, cut into bytes. -/
theorem frameBytesArePacked : Obligations.FrameBytesArePacked := by
  intro data t dr i hi
  have hsum := packFrame_toNat data t dr hi
  refine ⟨hsum, ?_⟩
  rw [frameBytes_toNat, hsum]
  have hdata := data.isLt
  have hcu := t.cu.toNat_le
  have hp := t.p.isLt
  have hdr := dr.toNat_le
  have hsc := t.sc.toNat_le
  have hbu := t.bu.toNat_le
  simp only [List.range_succ, List.range_zero, List.map_nil, List.map_cons, List.nil_append,
    List.cons_append, List.cons.injEq, and_true]
  refine ⟨?_, ?_, ?_, ?_, ?_, ?_, ?_, ?_⟩ <;> omega

end Sys2Proof.Machine
end

section
/-! The frames the FrameEncoder sends (spec/40_display.md R132, R133, R142, R146): what stands in the
data field and the chunk index of each, and which bits of DisplayMemory they carry. -/

namespace Sys2Proof.Machine

/-! ### The fields of a frame word (30_encoding.md R105, R106) -/

/-- F[51:0] is the payload: every control field of `packFrame_toNat` is a multiple of 2^52. -/
theorem frameData_packFrame (data : BitVec 52) (t : Template) (dr : Bool) {i : Nat} (hi : i < 4) :
    frameData (packFrame data t dr i) = data := by
  have hsum := packFrame_toNat data t dr hi
  have hdata := data.isLt
  apply BitVec.eq_of_toNat_eq
  rw [frameData, BitVec.extractLsb'_toNat, Nat.shiftRight_zero]
  omega

/-- F[63:62] is the chunk index: every other field of `packFrame_toNat` ends below bit 62. -/
theorem frameDd_packFrame (data : BitVec 52) (t : Template) (dr : Bool) {i : Nat} (hi : i < 4) :
    (frameDd (packFrame data t dr i)).toNat = i := by
  have hsum := packFrame_toNat data t dr hi
  have hdata := data.isLt
  have hcu := t.cu.toNat_le
  have hp := t.p.isLt
  have hdr := dr.toNat_le
  have hsc := t.sc.toNat_le
  have hbu := t.bu.toNat_le
  rw [frameDd, BitVec.extractLsb'_toNat, Nat.shiftRight_eq_div_pow]
  omega

theorem frameBytes_getElem? (F : FrameWord) {j : Nat} (hj : j < 8) :
    (frameBytes F)[j]? = some (F.extractLsb' (8 * j) 8) := by
  simp [frameBytes, Param.frameBytes, hj]

/-- Payload bit k is bit k mod 8 of frame byte k div 8. -/
theorem frameByte_getLsbD (F : FrameWord) {k : Nat} (hk : k < 52) :
    (F.extractLsb' (8 * (k / 8)) 8).getLsbD (k % 8) = (frameData F).getLsbD k := by
  have inByte : k % 8 < 8 := Nat.mod_lt _ (by decide)
  rw [frameData, BitVec.getLsbD_extractLsb', BitVec.getLsbD_extractLsb', decide_eq_true inByte,
    decide_eq_true hk, Nat.div_add_mod, Nat.zero_add]

/-! ### The frames in closed form (R132, R133) -/

theorem framesOf_getElem? (s : State) {n k : Nat} (hk : k < n) :
    (framesOf n s)[k]? = some (packFrame (chunk s.cfg s.mem k) s.tpl (drOfFrame s k) k) := by
  simp [framesOf, hk]

/-- The frames read DisplayMemory through its chunks alone. -/
theorem framesOf_withMem_congr {s : State} {m : DisplayMemory} (n : Nat)
    (h : ∀ k, chunk s.cfg m k = chunk s.cfg s.mem k) : framesOf n { s with mem := m } = framesOf n s := by
  simp only [framesOf, h, drOfFrame]

theorem framesOf_map_frameData (s : State) {n : Nat} (hn : n ≤ 4) :
    (framesOf n s).map frameData = (List.range n).map (chunk s.cfg s.mem) := by
  rw [framesOf, List.map_map]
  refine List.map_congr_left fun k hk => ?_
  have hlt := List.mem_range.mp hk
  exact frameData_packFrame _ _ _ (by omega)

theorem framesOf_map_frameDd (s : State) {n : Nat} (hn : n ≤ 4) :
    (framesOf n s).map (fun F => (frameDd F).toNat) = List.range n := by
  rw [framesOf, List.map_map, List.map_congr_left (g := id), List.map_id]
  intro k hk
  have hlt := List.mem_range.mp hk
  exact frameDd_packFrame _ _ _ (by omega)

/-! ### Where a bit of DisplayMemory is sent (R142, R146) -/

/-- A bit from SEGMENT_COUNT on is in no chunk (20_memory.md R62). -/
theorem chunk_setBit_of_segmentCount_le {c : Config} (hc : c.wf = true) (m : DisplayMemory) {L : Nat}
    (hL : c.segmentCount ≤ L) (h192 : L < 192) (v : Bool) (i : Nat) :
    chunk c (m.setBit L v) i = chunk c m i := by
  obtain ⟨hcount, _, _⟩ := numChunks_spec hc
  refine BitVec.eq_of_getLsbD_eq fun k hk => ?_
  rw [chunk_getLsbD _ _ _ _ hk, chunk_getLsbD _ _ _ _ hk]
  by_cases hi : i < c.numChunks
  · have other : 52 * i + k ≠ L := by omega
    rw [m.bit_setBit L _ v h192, if_neg other]
  · rw [decide_eq_false hi, Bool.false_and, Bool.false_and]

/-- Settles O19: the frame by `framesOf_getElem?`, its byte by `frameByte_getLsbD`, its bit by
`chunk_getLsbD`; beyond SEGMENT_COUNT no chunk changes. -/
theorem bitIsSentAtItsPlace : Obligations.BitIsSentAtItsPlace := by
  intro s n L v hc hn h192
  subst hn
  obtain ⟨hcount, _, _⟩ := numChunks_spec hc
  refine ⟨fun hL => ⟨_, _, framesOf_getElem? s (by omega), frameBytes_getElem? _ (by omega), ?bit,
    frameDd_packFrame _ _ _ (by omega)⟩, fun hL => ?beyond⟩
  case bit =>
    have inPayload : L % 52 < 52 := Nat.mod_lt _ (by decide)
    have inFrames : L / 52 < s.cfg.numChunks := by omega
    rw [frameByte_getLsbD _ inPayload, frameData_packFrame _ _ _ (by omega), chunk_getLsbD _ _ _ _ inPayload,
      decide_eq_true inFrames, Bool.true_and, Nat.div_add_mod]
  case beyond => exact framesOf_withMem_congr _ (chunk_setBit_of_segmentCount_le hc s.mem hL h192 v)

/-! ### A memory with only bit 0 set (R146) -/

theorem bit_of_only_bit_zero (L : Nat) : (DisplayMemory.mk 1 0 0).bit L = decide (L = 0) := by
  have written : DisplayMemory.mk 1 0 0 = (DisplayMemory.mk 0 0 0).setBit 0 true := by decide
  have empty : (DisplayMemory.mk 0 0 0).bit L = false := DisplayMemory.bit_zero L
  rw [written, DisplayMemory.bit_setBit _ _ _ _ (by decide), empty]
  rfl

/-- Bit 0 is bit 0 of chunk 0, and in no other chunk. -/
theorem chunk_of_only_bit_zero {c : Config} (h : 0 < c.numChunks) (i : Nat) :
    chunk c ⟨1, 0, 0⟩ i = if i = 0 then 1 else 0 := by
  refine BitVec.eq_of_getLsbD_eq fun k hk => ?_
  rw [chunk_getLsbD _ _ _ _ hk, bit_of_only_bit_zero]
  by_cases hi : i = 0
  · subst hi
    simp [h, BitVec.getLsbD_one]
  · simp [hi]

theorem map_chunk_of_only_bit_zero {c : Config} (h : 0 < c.numChunks) :
    (List.range c.numChunks).map (chunk c ⟨1, 0, 0⟩) = 1 :: List.replicate (c.numChunks - 1) 0 := by
  have chunk_eq := chunk_of_only_bit_zero h
  obtain ⟨n, hn⟩ : ∃ n, c.numChunks = n + 1 := Nat.exists_eq_add_one.mpr h
  rw [hn, List.range_succ_eq_map, List.map_cons, List.map_map, Nat.add_sub_cancel]
  congr 1
  · exact chunk_eq 0
  · rw [List.map_congr_left (g := fun _ => 0), List.map_const', List.length_range]
    exact fun k _ => chunk_eq (k + 1)

/-- Settles O28: the frames of one flush in closed form, and their two fields. -/
theorem encoderOnBitZero : Obligations.EncoderOnBitZero := by
  intro s hc h hm hmem
  obtain ⟨_, hpos, hle⟩ := numChunks_spec hc
  refine ⟨framesOf s.cfg.numChunks s, ?trace, ?payload, framesOf_map_frameDd s (by omega)⟩
  case trace => rw [encodeAndSend_of_noHang h hm, sentFrames_bus]
  case payload => rw [framesOf_map_frameData s (by omega), hmem, map_chunk_of_only_bit_zero hpos]

end Sys2Proof.Machine
end

section
/-! The display commands (spec/40_display.md R134 to R144): what each writes, sends and answers on a bus
that does not hang. -/

namespace Sys2Proof.Machine

/-! ### Commands that send nothing -/

/-- R144: the whole effect of NOP is its response. -/
theorem exec_nop_of_not_hung {s : State} (h : s.hung = false) : exec .nop s = .next (answered .ok [] s) := by
  have arm : exec .nop s = command (respond .ok []) s := rfl
  rw [arm, command_of_not_hung h, respond_of_not_hung h]

/-- Settles O20: NOP and every opcode outside Table O give one response. -/
theorem nopOnlyResponds : Obligations.NopOnlyResponds := by
  refine fun s op rest h => ⟨rfl, fun hop => ?decodes, exec_nop_of_not_hung h, exec_unknown_of_not_hung op h⟩
  case decodes => exact decode_cons_eq_unknown_iff.mpr ⟨hop, rfl, rfl⟩

/-- R143: the template takes the operands, and the response follows. -/
theorem exec_dispSettpl_of_not_hung (cu : Bool) (p : BitVec 4) (dr sc bu : Bool) {s : State}
    (h : s.hung = false) :
    exec (.dispSettpl cu p dr sc bu) s = .next (answered .ok [] { s with tpl := ⟨cu, p, dr, sc, bu⟩ }) := by
  have arm : exec (.dispSettpl cu p dr sc bu) s =
      command (fun s => respond .ok [] { s with tpl := ⟨cu, p, dr, sc, bu⟩ }) s := rfl
  rw [arm, command_of_not_hung h, respond_of_not_hung (s := { s with tpl := ⟨cu, p, dr, sc, bu⟩ }) h]

/-- Settles O27: the fields of `ctl`, and the template as the only state written. -/
theorem settplWritesTheTemplate : Obligations.SettplWritesTheTemplate :=
  fun _ ctl _ cu p dr sc bu h =>
    ⟨decodeOp1_eq_ok.mpr ⟨ctl, rfl, rfl⟩, exec_dispSettpl_of_not_hung cu p dr sc bu h⟩

/-- R137: a position or a code out of range is a CFG_ERR and nothing else. -/
theorem exec_dispPutc_of_not_charOk {pos chr : Byte} {s : State} (h : s.hung = false)
    (hbad : charOk pos.toNat chr = false) : exec (.dispPutc pos chr) s = .next (answered .cfgErr [] s) := by
  have arm : exec (.dispPutc pos chr) s = execDispPutc pos chr s := rfl
  rw [arm, execDispPutc, command_of_not_hung h, if_neg (Bool.eq_false_iff.mp hbad), raise_of_not_hung h]

/-- R141: with no such icon DISP_SYM is a CFG_ERR and nothing else. -/
theorem exec_dispSym_of_numIcons_le {sym : Byte} {en : Bool} {s : State} (h : s.hung = false)
    (hbad : s.cfg.numIcons ≤ sym.toNat) : exec (.dispSym sym en) s = .next (answered .cfgErr [] s) := by
  have arm : exec (.dispSym sym en) s = execDispSym sym en s := rfl
  rw [arm, execDispSym, command_of_not_hung h, if_neg (by omega), raise_of_not_hung h]

/-! ### Commands that trigger the FrameEncoder

`flushOf` says from which state a command sends its frames; on a bus that does not hang they are all
sent, and the status follows. -/

theorem exec_of_flushOf_noHang {i : Instr} {s u : State} {n : Nat} {st : Status} (h : s.hung = false)
    (hm : s.cfg.busMayHang = false) (hf : flushOf i s = some (n, u, st)) :
    exec i s = .next (answered st [] (sentFrames n u)) := by
  obtain ⟨m, il, rfl, _⟩ := flushOf_writes hf
  rw [exec_of_flushOf_some h hf, emitFrames_of_noHang (s := { s with mem := m, initLeft := il }) n h hm,
    respond_of_not_hung (s := sentFrames n { s with mem := m, initLeft := il }) h]

/-- A command that writes DisplayMemory and flushes: what R134 says of the flush, over the memory written. -/
theorem exec_of_flushOf_withMem {i : Instr} {s : State} {m : DisplayMemory} {st : Status} (h : s.hung = false)
    (hm : s.cfg.busMayHang = false) (hf : flushOf i s = some (s.cfg.numChunks, { s with mem := m }, st)) :
    exec i s = .next { s with
      mem := m
      bus := s.bus ++ traceOf s.cfg (framesOf s.cfg.numChunks { s with mem := m })
      initLeft := initLeftAfter s.cfg.numChunks s
      rsp := s.rsp ++ [⟨st, []⟩] } :=
  exec_of_flushOf_noHang h hm hf

/-- Settles O21: one flush of the state as it is. -/
theorem flushSendsEveryChunk : Obligations.FlushSendsEveryChunk :=
  fun _ _ h hm => ⟨rfl, exec_of_flushOf_noHang h hm rfl⟩

/-- Four frames from init_left = 4 all have dr forced (R132, R135). -/
theorem framesOf_four_of_initLeft_four {s : State} (h : s.initLeft = 4) :
    framesOf 4 s = [packFrame (chunk s.cfg s.mem 0) s.tpl true 0, packFrame (chunk s.cfg s.mem 1) s.tpl true 1,
      packFrame (chunk s.cfg s.mem 2) s.tpl true 2, packFrame (chunk s.cfg s.mem 3) s.tpl true 3] := by
  have forced (k : Nat) (hk : k < 4) : drOfFrame s k = true := by
    simp [drOfFrame, h, hk]
  simp [framesOf, List.range_succ, forced]

/-- Settles O22: the four frames from init_left = 4, of which the fourth is beyond the last chunk. -/
theorem initSendsFourResetFrames : Obligations.InitSendsFourResetFrames := by
  refine fun s rest h hm => ⟨rfl, fun hc => ?fourth, ?effect⟩
  case fourth =>
    obtain ⟨_, _, hle⟩ := numChunks_spec hc
    exact chunk_of_ge hle s.mem
  case effect =>
    have sent := exec_of_flushOf_noHang (i := .dispInit) h hm rfl
    rw [sentFrames, framesOf_four_of_initLeft_four rfl] at sent
    exact sent

/-- Settles O23: one flush of the memory of all zeroes. -/
theorem clearZeroesAndFlushes : Obligations.ClearZeroesAndFlushes :=
  fun _ _ h hm => ⟨⟨0, 0, 0⟩, rfl, DisplayMemory.bit_zero, exec_of_flushOf_withMem h hm rfl⟩

/-- Settles O24: one flush of the rendered memory, whose bits `renderChar_bit` gives. -/
theorem putcWritesOneGlyph : Obligations.PutcWritesOneGlyph := by
  refine fun s pos chr rest hc h => ⟨rfl, fun hpos hlo hhi hm => ?glyph, fun hbad => ?error⟩
  case glyph =>
    obtain ⟨hseg, hkept⟩ := renderChar_bit hc chr hpos s.mem
    have hfont : inFont chr = true := by simp [inFont, hlo, hhi]
    exact ⟨renderChar s.cfg chr pos.toNat s.mem, hseg, hkept,
      exec_of_flushOf_withMem h hm (if_pos ⟨hpos, hfont⟩)⟩
  case error =>
    refine exec_dispPutc_of_not_charOk h ?_
    rw [Bool.eq_false_iff, ne_eq, charOk_iff]
    omega

/-- Settles O25: the loop stops at the first error by `renderString_spec`, and one flush follows. -/
theorem putsCommitsUpToTheFirstError : Obligations.PutsCommitsUpToTheFirstError := by
  intro s pos chrs rest k h hm hk hgood hbad
  have good (j : Nat) (x : Byte) (hj : j < k) (hx : chrs[j]? = some x) : charOk (pos.toNat + j) x = true :=
    (charOk_iff _ _).mpr (hgood j x hj hx)
  have bad (x : Byte) (hx : chrs[k]? = some x) : charOk (pos.toNat + k) x = false := by
    have outOfRange := hbad x hx
    rw [Bool.eq_false_iff, ne_eq, charOk_iff]
    omega
  have drawn := renderString_spec s.cfg chrs pos.toNat k s.mem hk good bad
  refine ⟨fun len hlen => decodeOps_eq_ok.mpr ⟨pos, len, chrs, rfl, hlen.symm, rfl⟩, _, rfl, ?_⟩
  have status : (if decide (k < chrs.length) = true then Status.cfgErr else .ok) =
      if k = chrs.length then .ok else .cfgErr := by
    by_cases whole : k = chrs.length
    · simp [whole]
    · have stopped : k < chrs.length := by omega
      simp [whole, stopped]
  have sent := exec_of_flushOf_withMem (i := .dispPuts pos chrs) h hm rfl
  rw [drawn, status] at sent
  exact sent

/-- Settles O26: one flush of the memory with the icon's bit written. -/
theorem symWritesOneBit : Obligations.SymWritesOneBit := by
  refine fun s sym b rest en hc h => ⟨decodeOp2_eq_ok.mpr ⟨sym, b, rfl, rfl⟩, fun hsym hm => ?icon,
    exec_dispSym_of_numIcons_le h⟩
  case icon =>
    have written (K : Nat) := s.mem.bit_setBit _ K en (iconAddr_lt hc hsym)
    exact ⟨s.mem.setBit (linearIndex (iconAddr s.cfg sym.toNat)) en, (written _).trans (if_pos rfl),
      fun L hL => (written L).trans (if_neg hL), exec_of_flushOf_withMem h hm (if_pos hsym)⟩

end Sys2Proof.Machine
end

section
/-! The debouncer (spec/41_debounce.md): the effect of one TICK (R171, R172), and what the five KEY
commands answer from its state (R175 to R179). -/

namespace Sys2Proof.Machine

/-! ### One TICK (R171, R172) -/

/-- TICK pushes the conditioned sample into the ring; a hung block serves it too. -/
theorem exec_tick (pins : KeyVec) (s : State) :
    exec (.tick pins) s = .next (pushSample (s.rawSample pins) s) := rfl

/-- Settles O31: the sample and the AND of the ring, bit by bit, in the effect `exec_tick` gives. -/
theorem tickTakesOneSample : Obligations.TickTakesOneSample := by
  intro s pins hring
  have nonempty : s.ring.set s.ridx (s.rawSample pins) ≠ [] := mt (List.set_eq_nil_iff _ _).mp hring
  exact ⟨s.rawSample pins, andAll (s.ring.set s.ridx (s.rawSample pins)), rawSample_testBit s pins,
    andAll_testBit nonempty, exec_tick pins s⟩

/-! ### One bit of a key vector (R175 to R177) -/

theorem State.pressed_testBit (s : State) (k : Nat) :
    s.pressed.testBit k = (s.changed.testBit k && s.stable.testBit k) := Nat.testBit_and ..

/-- Within the width KW the complement in `released` is that of the bit (00_scope.md R10). -/
theorem State.released_testBit (s : State) {k : Nat} (hk : k < s.cfg.kw) :
    s.released.testBit k = (s.changed.testBit k && !s.stable.testBit k) := by
  rw [released, Nat.testBit_and, notWithin_testBit, decide_eq_true hk, Bool.true_and]

/-- A key query whose view shows `bit` at every key in range answers that bit, or CFG_ERR for a key
beyond KW, and writes nothing else. -/
theorem command_keyQuery_of_not_hung {view : State → KeyVec} {key : Byte} {bit : Bool} {s : State}
    (h : s.hung = false) (hbit : key.toNat < s.cfg.kw → (view s).testBit key.toNat = bit) :
    command (keyQuery view key) s = .next { s with
      rsp := s.rsp ++ [if key.toNat < s.cfg.kw then ⟨.ok, [if bit then 1 else 0]⟩ else ⟨.cfgErr, []⟩] } := by
  rw [command_of_not_hung h, keyQuery_of_not_hung h]
  by_cases hkey : key.toNat < s.cfg.kw
  · rw [if_pos hkey, if_pos hkey, hbit hkey]
    rfl
  · rw [if_neg hkey, if_neg hkey]
    rfl

/-- Settles O36: the query of `stable`. -/
theorem keyStatusReadsStable : Obligations.KeyStatusReadsStable :=
  fun _ key _ h => ⟨decodeOp1_eq_ok.mpr ⟨key, rfl, rfl⟩, command_keyQuery_of_not_hung h fun _ => rfl⟩

/-- Settles O37: the query of `pressed`. -/
theorem keyPressedReadsThePressEdge : Obligations.KeyPressedReadsThePressEdge :=
  fun s key _ h => ⟨decodeOp1_eq_ok.mpr ⟨key, rfl, rfl⟩,
    command_keyQuery_of_not_hung h fun _ => s.pressed_testBit key.toNat⟩

/-- Settles O38: the query of `released`, whose complement is only read below KW. -/
theorem keyReleasedReadsTheReleaseEdge : Obligations.KeyReleasedReadsTheReleaseEdge :=
  fun s key _ h => ⟨decodeOp1_eq_ok.mpr ⟨key, rfl, rfl⟩,
    command_keyQuery_of_not_hung h s.released_testBit⟩

/-! ### Whole key vectors (R178, R179) -/

/-- A command whose body only answers OK with a payload read from the state. -/
theorem command_respond_of_not_hung (payload : State → List Byte) {s : State} (h : s.hung = false) :
    command (fun s => respond .ok (payload s) s) s = .next (answered .ok (payload s) s) := by
  rw [command_of_not_hung h, respond_of_not_hung h]

theorem exec_keyState_of_not_hung {s : State} (h : s.hung = false) :
    exec .keyState s = .next (answered .ok (bytesLE s.cfg.kb s.stable) s) :=
  command_respond_of_not_hung (fun s => bytesLE s.cfg.kb s.stable) h

theorem exec_keyPress_of_not_hung {s : State} (h : s.hung = false) :
    exec .keyPress s = .next (answered .ok (bytesLE s.cfg.kb s.pressed) s) :=
  command_respond_of_not_hung (fun s => bytesLE s.cfg.kb s.pressed) h

/-- KB bytes hold every bit of a vector of KW bits (30_encoding.md R98). -/
theorem payloadNumber_of_keyVec {c : Config} {v : KeyVec} (hv : v < 2 ^ c.kw) :
    payloadNumber (bytesLE c.kb v) = v := by
  have fits : c.kw ≤ 8 * c.kb := by
    rw [Config.kb]
    omega
  exact payloadNumber_bytesLE c.kb v (hv.trans_le (Nat.pow_le_pow_right (by decide) fits))

/-- Settles O39: both payloads by `payloadNumber_of_keyVec`; `pressed` lies inside `stable`, so it has no
bit beyond KW either. -/
theorem keyVectorsAreReadWhole : Obligations.KeyVectorsAreReadWhole := by
  intro s rest h hstable
  have hpressed : s.pressed < 2 ^ s.cfg.kw := Nat.and_lt_two_pow _ hstable
  exact ⟨bytesLE s.cfg.kb s.stable, bytesLE s.cfg.kb s.pressed, rfl, rfl, bytesLE_length .., bytesLE_length ..,
    payloadNumber_of_keyVec hstable, payloadNumber_of_keyVec hpressed,
    exec_keyState_of_not_hung h, exec_keyPress_of_not_hung h⟩

end Sys2Proof.Machine
end

section
/-! The analog mux (spec/42_adcmux.md): what ADC_REG adds (R201), one reading of the sampler (R203, R207),
and what ADC_GET reads (R206). -/

namespace Sys2Proof.Machine

/-! ### ADC_REG (R201) -/

/-- The sampler runs afterwards, and a group in progress goes on (R202 (a)). -/
theorem startSampler_eq (s : State) : startSampler s = { s with
    cur := if s.running then s.cur else 0
    acc := if s.running then s.acc else 0
    cnt := if s.running then s.cnt else 0
    running := true } := by
  cases running : s.running with
  | false => exact if_neg (Bool.eq_false_iff.mp running)
  | true =>
    have unchanged : { s with running := true } = s := by rw [← running]
    exact (if_pos running).trans unchanged.symm

/-- The capacity check comes first, then the check of ns. -/
theorem exec_adcReg_of_not_hung (sel : Byte) (ref : BitVec 2) (res : Bool) (ns : Byte) {s : State}
    (h : s.hung = false) :
    exec (.adcReg sel ref res ns) s = .next (
      if 10 ≤ s.nchan then answered .capErr [] s
      else if ns = 0 then answered .cfgErr [] s
      else answered .ok [BitVec.ofNat 8 s.nchan] (startSampler (addChannel sel ref res ns s))) := by
  have arm : exec (.adcReg sel ref res ns) s = execAdcReg sel ref res ns s := rfl
  have unhung : (startSampler (addChannel sel ref res ns s)).hung = false := by simpa using h
  rw [arm, execAdcReg, command_of_not_hung h, raise_of_not_hung h, raise_of_not_hung h,
    respond_of_not_hung unhung]

/-- Settles O42: one case of `exec_adcReg_of_not_hung` for each clause. -/
theorem adcRegAddsOneChannel : Obligations.AdcRegAddsOneChannel := by
  intro s sel cfg ns rest ref res h
  have effect := exec_adcReg_of_not_hung sel ref res ns h
  refine ⟨decodeOp3_eq_ok.mpr ⟨sel, cfg, ns, rfl, rfl⟩, fun room hns => ?added, fun full => ?full,
    fun room hns => ?noSamples⟩
  case added =>
    rw [effect, if_neg (Nat.not_le.mpr room), if_neg hns, startSampler_eq]
    rfl
  case full =>
    rw [effect, if_pos full]
    rfl
  case noSamples =>
    rw [effect, if_neg (Nat.not_le.mpr room), if_pos hns]
    rfl

/-! ### ADC_DONE (R203, R207) -/

/-- No conversion is armed while the sampler is idle. -/
theorem exec_adcDone_of_idle (r : Reading) {s : State} (h : s.running = false) :
    exec (.adcDone r) s = .next s :=
  congrArg Host.Outcome.next (if_neg (Bool.eq_false_iff.mp h))

theorem exec_adcDone_of_running (r : Reading) {s : State} (h : s.running = true) :
    exec (.adcDone r) s = .next (takeReading r s) :=
  congrArg Host.Outcome.next (if_pos h)

theorem maxSample_lt_two_pow (res : Bool) : maxSample res < 2 ^ (if res then 10 else 8) := by
  cases res <;> decide

/-- The mean of a full group fits in the width of its samples (R207). -/
theorem mean_lt_two_pow {s : State} (hi : MuxInv s) (hr : s.running = true) (r : Reading)
    (full : s.cnt.toNat + 1 = (s.chanAt s.cur).ns.toNat) :
    (s.acc.toNat + sampleNat (s.chanAt s.cur).res r) / (s.chanAt s.cur).ns.toNat <
      2 ^ (if (s.chanAt s.cur).res then 10 else 8) := by
  obtain ⟨sum_le, _, _⟩ := acc_add_sample_le hi hr r
  rw [full] at sum_le
  exact (Nat.div_le_of_le_mul sum_le).trans_lt (maxSample_lt_two_pow _)

/-- Settles O43: the sampler's cases by `takeReading_spec`, inside the bounds of R207. -/
theorem adcDoneAccumulatesOrPublishes : Obligations.AdcDoneAccumulatesOrPublishes := by
  refine fun s r hi => ⟨exec_adcDone_of_idle r, ?running⟩
  case running =>
    rintro hr _ _ rfl rfl
    obtain ⟨_, acc_fits, cnt_le⟩ := acc_add_sample_le hi hr r
    obtain ⟨accumulates, publishes⟩ := takeReading_spec hi hr r
    have step := exec_adcDone_of_running r hr
    have ns_lt := (s.chanAt s.cur).ns.isLt
    exact ⟨acc_fits, by omega, fun more => step.trans (congrArg _ (accumulates more)),
      fun full => ⟨mean_lt_two_pow hi hr r full, step.trans (congrArg _ (publishes full))⟩⟩

/-! ### ADC_GET (R206) -/

/-- Two bytes hold a 10-bit result, low byte first. -/
theorem resultBytes_eq_bytesLE (v : Reading) : resultBytes v = bytesLE 2 v.toNat := by
  have hv := v.isLt
  have high : (v.extractLsb' 8 2).setWidth 8 = BitVec.ofNat 8 (v.toNat >>> 8) := by
    apply BitVec.eq_of_toNat_eq
    simp only [BitVec.toNat_setWidth, BitVec.extractLsb'_toNat, BitVec.toNat_ofNat, Nat.shiftRight_eq_div_pow]
    omega
  rw [resultBytes, high]
  rfl

theorem payloadNumber_resultBytes (v : Reading) : payloadNumber (resultBytes v) = v.toNat := by
  rw [resultBytes_eq_bytesLE]
  exact payloadNumber_bytesLE 2 v.toNat (v.isLt.trans (by decide))

/-- The check of the id comes first, then the check of `ready`. -/
theorem exec_adcGet_of_not_hung (id : Byte) {s : State} (h : s.hung = false) :
    exec (.adcGet id) s = .next (
      if s.nchan ≤ id.toNat then answered .cfgErr [] s
      else if (s.chanAt id.toNat).ready then
        answered .ok (resultBytes (s.chanAt id.toNat).result)
          (s.setChan id.toNat { s.chanAt id.toNat with ready := false })
      else answered .noData [] s) := by
  have arm : exec (.adcGet id) s = execAdcGet id s := rfl
  have unhung (ch : Channel) : (s.setChan id.toNat ch).hung = false := h
  simp only [arm, execAdcGet, command_of_not_hung h, raise_of_not_hung h, respond_of_not_hung h,
    respond_of_not_hung (unhung _)]

/-- Settles O46: one case of `exec_adcGet_of_not_hung` for each clause. -/
theorem adcGetReadsAndClearsReady : Obligations.AdcGetReadsAndClearsReady := by
  rintro s id rest _ h rfl
  have effect := exec_adcGet_of_not_hung id h
  refine ⟨decodeOp1_eq_ok.mpr ⟨id, rfl, rfl⟩, fun registered ready => ?ready, fun registered unready => ?unready,
    fun unregistered => ?unregistered⟩
  case ready =>
    refine ⟨resultBytes (s.chanAt id.toNat).result, rfl, payloadNumber_resultBytes _, ?_⟩
    rw [effect, if_neg (Nat.not_le.mpr registered), if_pos ready]
    rfl
  case unready =>
    rw [effect, if_neg (Nat.not_le.mpr registered), if_neg (Bool.eq_false_iff.mp unready)]
    rfl
  case unregistered =>
    rw [effect, if_pos unregistered]
    rfl

end Sys2Proof.Machine
end

section
/-! The key classifier (spec/43_keyclass.md): the bucket of a value in a descending table (R240, R241), and
what KEY_CLASSIFY answers (R244). -/

namespace Sys2Proof

/-- R8 (f) compares neighbours only, which orders the whole table. -/
theorem strictlyDescending_iff_sortedGT (es : List ThresholdEntry) :
    strictlyDescending es = true ↔ (es.map (·.thresh.toNat)).SortedGT := by
  rw [List.sortedGT_iff_isChain]
  induction es using strictlyDescending.induct with
  | case1 a b es ih => simp [strictlyDescending, ih, BitVec.lt_def]
  | case2 es single =>
    match es with
    | [] | [_] => simp [strictlyDescending]
    | a :: b :: es => exact absurd rfl (single a b es)

/-- An earlier breakpoint of a descending table is never the lower one. -/
theorem thresh_le_of_strictlyDescending {es : List ThresholdEntry} (h : strictlyDescending es = true) {i j : Nat}
    {e f : ThresholdEntry} (hij : i ≤ j) (hf : es[i]? = some f) (he : es[j]? = some e) : e.thresh ≤ f.thresh := by
  obtain ⟨hi, rfl⟩ := List.getElem?_eq_some_iff.mp hf
  obtain ⟨hj, rfl⟩ := List.getElem?_eq_some_iff.mp he
  have sorted := (strictlyDescending_iff_sortedGT es).mp h
  have ordered : (es.map (·.thresh.toNat))[j]'(by simpa) ≤ (es.map (·.thresh.toNat))[i]'(by simpa) :=
    sorted.sortedGE.getElem_ge_getElem_of_le hij
  rwa [List.getElem_map, List.getElem_map, ← BitVec.le_def] at ordered

theorem Config.strictlyDescending_of_wf {c : Config} (h : c.wf = true) : strictlyDescending c.thresholds = true := by
  simp only [wf, wfThresholds, Bool.and_eq_true] at h
  obtain ⟨⟨⟨_, ⟨descending, _⟩, _⟩, _⟩, _⟩ := h
  exact descending

end Sys2Proof

namespace Sys2Proof.Machine

/-! ### The bucket of a value (R240, R241) -/

theorem classifyIn_cons_of_le {e : ThresholdEntry} {v : Reading} (h : e.thresh ≤ v) (es : List ThresholdEntry) :
    classifyIn (e :: es) v = e.mask := if_pos h

theorem classifyIn_cons_of_lt {e : ThresholdEntry} {v : Reading} (h : v < e.thresh) (es : List ThresholdEntry) :
    classifyIn (e :: es) v = classifyIn es v := if_neg (BitVec.not_le.mpr h)

/-- A value below every breakpoint is no key. -/
theorem classifyIn_eq_zero {es : List ThresholdEntry} {v : Reading} (h : ∀ e ∈ es, v < e.thresh) :
    classifyIn es v = 0 := by
  induction es with
  | nil => rfl
  | cons e es ih =>
    obtain ⟨below, rest⟩ := List.forall_mem_cons.mp h
    rw [classifyIn_cons_of_lt below, ih rest]

/-- The walk of R240 takes the first breakpoint that the value is not below. -/
theorem classifyIn_eq_mask {es : List ThresholdEntry} {v : Reading} {j : Nat} {e : ThresholdEntry}
    (he : es[j]? = some e) (reached : e.thresh ≤ v) (passed : ∀ i f, i < j → es[i]? = some f → v < f.thresh) :
    classifyIn es v = e.mask := by
  induction es generalizing j with
  | nil => simp at he
  | cons a es ih =>
    cases j with
    | zero =>
      obtain rfl : a = e := by simpa using he
      exact classifyIn_cons_of_le reached es
    | succ j =>
      rw [classifyIn_cons_of_lt (passed 0 a j.succ_pos rfl)]
      exact ih he fun i f hi hf => passed (i + 1) f (Nat.succ_lt_succ hi) hf

/-- Settles O40: below the next higher breakpoint is below all the higher ones, since the table descends. -/
theorem classifyFindsTheBucket : Obligations.ClassifyFindsTheBucket := by
  refine fun c v hc => ⟨fun j e he reached upper => classifyIn_eq_mask he reached ?_, classifyIn_eq_zero⟩
  intro i f hij hf
  have inside : j - 1 < c.thresholds.length := by
    have := (List.getElem?_eq_some_iff.mp he).1
    omega
  have next : c.thresholds[j - 1]? = some c.thresholds[j - 1] := List.getElem?_eq_getElem inside
  exact Std.lt_of_lt_of_le (upper _ (Nat.zero_lt_of_lt hij) next)
    (thresh_le_of_strictlyDescending (Config.strictlyDescending_of_wf hc) (Nat.le_sub_one_of_lt hij) hf next)

/-! ### KEY_CLASSIFY (R244) -/

theorem exec_keyClassify_of_not_hung (v : Reading) {s : State} (h : s.hung = false) :
    exec (.keyClassify v) s = .next (answered .ok (bytesLE s.cfg.ab (classify s.cfg v)) s) :=
  command_respond_of_not_hung (fun s => bytesLE s.cfg.ab (classify s.cfg v)) h

/-- AB bytes hold every bit of a mask of NUM_AKEY bits (30_encoding.md R98). -/
theorem payloadNumber_classify {c : Config} (h : c.wf = true) (v : Reading) :
    payloadNumber (bytesLE c.ab (classify c v)) = classify c v := by
  have fits : c.numAKey ≤ 8 * c.ab := by
    rw [Config.ab]
    omega
  exact payloadNumber_bytesLE c.ab _ ((classify_lt h v).trans_le (Nat.pow_le_pow_right (by decide) fits))

/-- Settles O41: the operand by `classifyOf_eq`, the payload by `payloadNumber_classify`. -/
theorem keyClassifyAnswersTheMask : Obligations.KeyClassifyAnswersTheMask := by
  intro s v a b rest hc h hv
  have operand : classifyOf a b = .keyClassify v := by
    rw [classifyOf_eq, ← hv, BitVec.ofNat_toNat, BitVec.setWidth_eq]
  exact ⟨bytesLE s.cfg.ab (classify s.cfg v), decodeOp2_eq_ok.mpr ⟨a, b, rfl, operand⟩, bytesLE_length ..,
    payloadNumber_classify hc v, exec_keyClassify_of_not_hung v h⟩

end Sys2Proof.Machine
end

section
/-! RESET (spec/70_reset_and_hazards.md R300): the state it leaves, by its fields. -/

namespace Sys2Proof.Machine

/-- A hung block serves RESET as well. -/
theorem exec_reset (s : State) : exec .reset s = .next (resetState s) := event_eq resetState s

/-- The output cs_n rests high until a first transaction pulls it low (R31). -/
theorem csN_of_bus_eq_nil {s : State} (h : s.bus = []) : s.csN = true := by
  rw [State.csN, h, chipSelectFrom]

@[simp] theorem resetState_csN (s : State) : (resetState s).csN = true :=
  csN_of_bus_eq_nil (resetState_bus s)

/-- Settles O48: `exec_reset` names the next state, and each row of Table S is its own field lemma. -/
theorem resetSetsEveryPieceOfState : Obligations.ResetSetsEveryPieceOfState := by
  intro s
  exact ⟨resetState s, exec_reset s, resetState_cfg s,
    resetState_mem s, resetState_tpl s, resetState_initLeft s,
    resetState_bus s, resetState_csN s,
    resetState_ring s, resetState_ridx s, resetState_stable s, resetState_changed s,
    resetState_nchan s, resetState_chan s, resetState_cur s, resetState_acc s,
    resetState_cnt s, resetState_running s, resetState_rsp s⟩

end Sys2Proof.Machine
end

section
/-! The command stream (spec/30_encoding.md R90 to R97): a command stands on the stream as bytes of its own,
which the decoder takes whatever follows, and not before the last of them has arrived. -/

namespace Sys2Proof

/-! ### The bytes of a command (R91 to R94) -/

/-- `own` are bytes of command `i`: as many as its format has, and the decoder answers `i` from them
whatever follows. -/
structure OwnBytes (i : Instr) (own : List Byte) : Prop where
  length_eq : own.length = commandLength i
  decodes : ∀ more, decode (own ++ more) = .ok (i, more)

theorem eq_ofNat_of_toNat_eq {op : Byte} {n : Nat} (h : op.toNat = n) : op = BitVec.ofNat 8 n := by
  rw [← h, BitVec.ofNat_toNat, BitVec.setWidth_eq]

theorem ownBytes_unknown {op : Byte} (h : unknownOpcode op = true) : OwnBytes (.unknown op) [op] :=
  ⟨rfl, fun _ => decode_cons_eq_unknown_iff.mpr ⟨h, rfl, rfl⟩⟩

/-- Every answer of the decoder is a well-formed command with its own bytes at the head of the stream. -/
theorem exists_ownBytes_of_decode {bytes rest : List Byte} {i : Instr} (h : decode bytes = .ok (i, rest)) :
    ∃ own, bytes = own ++ rest ∧ OwnBytes i own ∧ i.isCommand = true ∧ ∀ c, i.wf c = true := by
  cases bytes with
  | nil => cases h
  | cons op t =>
    by_cases outside : unknownOpcode op = true
    · rw [decode_cons_eq_unknown_iff.mpr ⟨outside, rfl, rfl⟩] at h
      cases h
      exact ⟨[op], rfl, ownBytes_unknown outside, rfl, fun _ => outside⟩
    simp only [decode] at h
    split at h
    case h_17 =>
      rw [unknownOpcode_iff] at outside
      simp only [imp_false] at *
      omega
    case h_1 row | h_2 row | h_3 row | h_7 row | h_12 row | h_13 row =>
      obtain rfl := eq_ofNat_of_toNat_eq row
      obtain ⟨rfl, rfl⟩ := decodeOp0_eq_ok.mp h
      exact ⟨[_], rfl, ⟨rfl, fun _ => rfl⟩, rfl, fun _ => rfl⟩
    case h_8 row | h_9 row | h_10 row | h_11 row | h_16 row =>
      obtain rfl := eq_ofNat_of_toNat_eq row
      obtain ⟨a, rfl, rfl⟩ := decodeOp1_eq_ok.mp h
      exact ⟨[_, a], rfl, ⟨rfl, fun _ => rfl⟩, rfl, fun _ => rfl⟩
    case h_4 row | h_6 row | h_14 row =>
      obtain rfl := eq_ofNat_of_toNat_eq row
      obtain ⟨a, b, rfl, rfl⟩ := decodeOp2_eq_ok.mp h
      exact ⟨[_, a, b], rfl, ⟨rfl, fun _ => rfl⟩, rfl, fun _ => rfl⟩
    case h_15 row =>
      obtain rfl := eq_ofNat_of_toNat_eq row
      obtain ⟨a, b, c, rfl, rfl⟩ := decodeOp3_eq_ok.mp h
      exact ⟨[_, a, b, c], rfl, ⟨rfl, fun _ => rfl⟩, rfl, fun _ => rfl⟩
    case h_5 row =>
      obtain rfl := eq_ofNat_of_toNat_eq row
      obtain ⟨pos, len, chrs, rfl, hlen, rfl⟩ := decodeOps_eq_ok.mp h
      have short : chrs.length ≤ 255 := by
        have := len.isLt
        omega
      have length_eq : (4#8 :: pos :: len :: chrs).length = commandLength (.dispPuts pos chrs) := by
        simp only [List.length_cons, commandLength]
        omega
      exact ⟨4#8 :: pos :: len :: chrs, rfl,
        ⟨length_eq, fun _ => decodeOps_eq_ok.mpr ⟨pos, len, chrs, rfl, hlen, rfl⟩⟩,
        rfl, fun _ => decide_eq_true short⟩

/-- Settles O2: `rest` is what follows the command's own bytes. -/
theorem decodedCommandTakesItsOwnBytes : Obligations.DecodedCommandTakesItsOwnBytes := by
  intro c bytes i rest h
  obtain ⟨own, rfl, bytesOfCommand, command, wf⟩ := exists_ownBytes_of_decode h
  rw [← bytesOfCommand.length_eq]
  exact ⟨command, wf c, by simp, List.drop_left.symm⟩

/-- R92: a stream that ends inside a command holds no command, since its answer would stand for the whole
command as well and leave bytes of it over. -/
theorem OwnBytes.decode_take {i : Instr} {own : List Byte} (h : OwnBytes i own) {n : Nat} (hn : n < own.length) :
    ∃ e, decode (own.take n) = .error e := by
  cases answer : decode (own.take n) with
  | error e => exact ⟨e, rfl⟩
  | ok found =>
    obtain ⟨j, rest⟩ := found
    obtain ⟨own', split, bytesOfFound, _⟩ := exists_ownBytes_of_decode answer
    have early := bytesOfFound.decodes (rest ++ own.drop n)
    rw [← List.append_assoc, ← split, List.take_append_drop] at early
    have whole := h.decodes []
    rw [List.append_nil, early] at whole
    have leftover : own.drop n = [] := by simp_all
    exact absurd (List.drop_eq_nil_iff.mp leftover) (by omega)

/-! ### The encoder (R93, R94) -/

/-- `ctl` from its low bit on: cu, p[3:0], dr, sc, bu. -/
theorem ctlByte_getLsbD (cu : Bool) (p : BitVec 4) (dr sc bu : Bool) (k : Nat) :
    (ctlByte cu p dr sc bu).getLsbD k =
      if k < 1 then (BitVec.ofBool cu).getLsbD k else if k - 1 < 4 then p.getLsbD (k - 1) else
        if k - 1 - 4 < 1 then (BitVec.ofBool dr).getLsbD (k - 1 - 4) else
          if k - 1 - 4 - 1 < 1 then (BitVec.ofBool sc).getLsbD (k - 1 - 4 - 1) else
            (BitVec.ofBool bu).getLsbD (k - 1 - 4 - 1 - 1) := by
  unfold ctlByte
  rw [BitVec.getLsbD_append, BitVec.getLsbD_append, BitVec.getLsbD_append, BitVec.getLsbD_append]

theorem settplOf_ctlByte (cu : Bool) (p : BitVec 4) (dr sc bu : Bool) :
    settplOf (ctlByte cu p dr sc bu) = .dispSettpl cu p dr sc bu := by
  have field : (ctlByte cu p dr sc bu).extractLsb' 1 4 = p := by
    refine BitVec.eq_of_getLsbD_eq fun k hk => ?_
    rw [BitVec.getLsbD_extractLsb', ctlByte_getLsbD]
    simp [hk]
  simp only [settplOf, field, ctlByte_getLsbD]
  simp

theorem symOf_enByte (sym : Byte) (en : Bool) : symOf sym (if en then 1 else 0) = .dispSym sym en := by
  cases en <;> rfl

/-- `cfg` from its low bit on: ref[1:0], res, five ignored bits. -/
theorem cfgByte_getLsbD (ref : BitVec 2) (res : Bool) (k : Nat) :
    (cfgByte ref res).getLsbD k = if k < 2 then ref.getLsbD k else
      if k - 2 < 1 then (BitVec.ofBool res).getLsbD (k - 2) else (0 : BitVec 5).getLsbD (k - 2 - 1) := by
  unfold cfgByte
  rw [BitVec.getLsbD_append, BitVec.getLsbD_append]

theorem regOf_cfgByte (sel : Byte) (ref : BitVec 2) (res : Bool) (ns : Byte) :
    regOf sel (cfgByte ref res) ns = .adcReg sel ref res ns := by
  have field : (cfgByte ref res).extractLsb' 0 2 = ref := by
    refine BitVec.eq_of_getLsbD_eq fun k hk => ?_
    rw [BitVec.getLsbD_extractLsb', cfgByte_getLsbD]
    simp [hk]
  simp only [regOf, field, cfgByte_getLsbD]
  simp
theorem classifyOf_valueBytes (v : Reading) :
    classifyOf (v.extractLsb' 0 8) ((v.extractLsb' 8 2).setWidth 8) = .keyClassify v := by
  have hv := v.isLt
  rw [classifyOf_eq]
  refine congrArg Instr.keyClassify (BitVec.eq_of_toNat_eq ?_)
  simp only [BitVec.toNat_ofNat, BitVec.toNat_setWidth, BitVec.extractLsb'_toNat, Nat.shiftRight_eq_div_pow]
  omega

theorem length_encode (i : Instr) : (encode i).length = commandLength i := by
  cases i with
  | dispPuts pos chrs => exact Laws.EncodedLength.dispPuts pos chrs
  | _ => rfl

/-- The encoder writes a command's own bytes. -/
theorem ownBytes_encode {c : Config} {i : Instr} (command : i.isCommand = true) (wf : i.wf c = true) :
    OwnBytes i (encode i) := by
  refine ⟨length_encode i, fun more => ?_⟩
  cases i with
  | nop | dispInit | dispClear | dispFlush | keyState | keyPress => rfl
  | keyStatus _ | keyPressed _ | keyReleased _ | adcGet _ | dispPutc _ _ => rfl
  | dispPuts pos chrs =>
    have short : chrs.length ≤ 255 := of_decide_eq_true wf
    refine decodeOps_eq_ok.mpr ⟨pos, _, chrs, rfl, ?_, rfl⟩
    rw [BitVec.toNat_ofNat]
    omega
  | dispSym sym en => exact decodeOp2_eq_ok.mpr ⟨_, _, rfl, symOf_enByte sym en⟩
  | dispSettpl cu p dr sc bu => exact decodeOp1_eq_ok.mpr ⟨_, rfl, settplOf_ctlByte cu p dr sc bu⟩
  | keyClassify v => exact decodeOp2_eq_ok.mpr ⟨_, _, rfl, classifyOf_valueBytes v⟩
  | adcReg sel ref res ns => exact decodeOp3_eq_ok.mpr ⟨_, _, _, rfl, regOf_cfgByte sel ref res ns⟩
  | unknown op => exact (ownBytes_unknown wf).decodes more
  | tick _ | adcDone _ | reset => cases command

/-- Settles O1: what the encoder writes are the command's own bytes. -/
theorem decodeOfEncodeIsTheCommand : Obligations.DecodeOfEncodeIsTheCommand :=
  fun _ _ rest command wf => (ownBytes_encode command wf).decodes rest

/-- Settles O6: each word is read by evaluation of the decoder. -/
theorem writtenWordsDecode : Obligations.WrittenWordsDecode := by
  refine ⟨?_, ?_, ?_, ?_, ?_, ?_, ?_⟩ <;> decide

end Sys2Proof
end

section
/-! Fetch and step (spec/00_scope.md R16, 30_encoding.md R92, 60_exceptions.md R266, R270): which arrivals a
step takes, and what it then runs. -/

namespace Sys2Proof.Machine

/-! ### Fetching while commands are accepted (R92) -/

theorem fetchFrom_of_decode {rx rest : List Byte} {i : Instr} (h : decode rx = .ok (i, rest))
    (inputs : List Input) : fetchFrom rx inputs = some ⟨i, rest, inputs⟩ := by
  rw [fetchFrom.eq_def, h]

theorem fetchFrom_nil {rx : List Byte} {e : DecodeError} (h : decode rx = .error e) : fetchFrom rx [] = none := by
  rw [fetchFrom.eq_def, h]

theorem fetchFrom_byte {rx : List Byte} {e : DecodeError} (h : decode rx = .error e) (b : Byte) (more : List Input) :
    fetchFrom rx (.byte b :: more) = fetchFrom (rx ++ [b]) more := by
  rw [fetchFrom.eq_def rx (.byte b :: more), h]

theorem fetchFrom_event {rx : List Byte} {e : DecodeError} (h : decode rx = .error e) {x : Input} {ev : Instr}
    (hx : x.event? = some ev) (more : List Input) : fetchFrom rx (x :: more) = some ⟨ev, rx, more⟩ := by
  cases x <;> cases hx <;> rw [fetchFrom.eq_def, h]

/-- The first bytes of a command join the received ones: before its last byte nothing runs. -/
theorem fetchFrom_ownBytes {i : Instr} {own : List Byte} (h : OwnBytes i own) {n : Nat} (hn : n ≤ own.length)
    (more : List Input) : fetchFrom [] ((own.take n).map Input.byte ++ more) = fetchFrom (own.take n) more := by
  induction n generalizing more with
  | zero => rfl
  | succ n ih =>
    obtain ⟨e, incomplete⟩ := h.decode_take (n := n) (by omega)
    rw [List.take_succ_eq_append_getElem (by omega), List.map_append, List.append_assoc, ih (by omega)]
    exact fetchFrom_byte incomplete _ more

/-! ### Fetching while the block is hung (R266) -/

theorem fetchEvent_bytes (bs : List Byte) : fetchEvent (bs.map Input.byte) = none := by
  induction bs with
  | nil => rfl
  | cons b bs ih => rw [List.map_cons, fetchEvent, ih, Option.map_none]

theorem fetchEvent_bytes_event (bs : List Byte) {x : Input} {ev : Instr} (hx : x.event? = some ev)
    (more : List Input) :
    fetchEvent (bs.map Input.byte ++ x :: more) = some (ev, bs.map Input.byte ++ more) := by
  induction bs with
  | nil => cases x <;> cases hx <;> rfl
  | cons b bs ih => rw [List.map_cons, List.cons_append, fetchEvent, ih, Option.map_some]; rfl

/-! ### Steps -/

theorem fetch_of_not_hung {s : State} (h : s.hung = false) :
    fetch s = (fetchFrom s.rx s.inputs).map fun f => (f.instr, { s with rx := f.rx, inputs := f.inputs }) :=
  if_neg (Bool.eq_false_iff.mp h)

theorem fetch_of_hung {s : State} (h : s.hung = true) :
    fetch s = (fetchEvent s.inputs).map fun (i, more) => (i, { s with inputs := more }) :=
  if_pos h

theorem step_of_fetch {s u : State} {i : Instr} (hc : s.cfg.wf = true) (h : fetch s = some (i, u)) :
    step s = exec i u := by
  rw [step, if_pos hc, h]

/-- A step with nothing to run waits. -/
theorem step_of_fetch_none {s : State} (hc : s.cfg.wf = true) (h : fetch s = none) : step s = .next s := by
  rw [step, if_pos hc, h]

/-- A fetch takes arrivals and received bytes and leaves everything else. -/
theorem fetch_writes {s u : State} {i : Instr} (h : fetch s = some (i, u)) :
    ∃ rx inputs, u = { s with rx := rx, inputs := inputs } := by
  rcases Bool.eq_false_or_eq_true s.hung with hung | hung
  · rw [fetch_of_hung hung, Option.map_eq_some_iff] at h
    obtain ⟨⟨j, more⟩, _, e⟩ := h
    cases e
    exact ⟨s.rx, more, rfl⟩
  · rw [fetch_of_not_hung hung, Option.map_eq_some_iff] at h
    obtain ⟨f, _, e⟩ := h
    cases e
    exact ⟨f.rx, f.inputs, rfl⟩

/-- What a step of an accepting block runs, from what its fetch finds. -/
theorem step_of_fetchFrom {s : State} {f : Fetched} (hc : s.cfg.wf = true) (h : s.hung = false)
    (hf : fetchFrom s.rx s.inputs = some f) : step s = exec f.instr { s with rx := f.rx, inputs := f.inputs } :=
  step_of_fetch hc (by rw [fetch_of_not_hung h, hf, Option.map_some])

/-- Settles O7: a whole command at `rx` is what the fetch finds. -/
theorem stepRunsTheDecodedCommand : Obligations.StepRunsTheDecodedCommand :=
  fun s _ _ hc h decoded => step_of_fetchFrom hc h (fetchFrom_of_decode decoded s.inputs)

/-- Settles O4: the received bytes are a proper part of the command's own, and no arrival is at hand. -/
theorem truncatedCommandTakesNoStep : Obligations.TruncatedCommandTakesNoStep := by
  intro s i n hc h command wf noInputs hn hrx
  obtain ⟨e, incomplete⟩ := (ownBytes_encode command wf).decode_take hn
  rw [← hrx] at incomplete
  refine ⟨length_encode i, ⟨e, incomplete⟩, step_of_fetch_none hc ?_⟩
  rw [fetch_of_not_hung h, noInputs, fetchFrom_nil incomplete, Option.map_none]

/-- The bytes of a command that arrive at an empty `rx` are one step. -/
theorem step_of_arriving_command {s : State} {i : Instr} {more : List Input} (hc : s.cfg.wf = true)
    (h : s.hung = false) (command : i.isCommand = true) (wf : i.wf s.cfg = true) (hrx : s.rx = [])
    (hinputs : s.inputs = (encode i).map Input.byte ++ more) : step s = exec i { s with inputs := more } := by
  have own := ownBytes_encode command wf
  have whole := own.decodes []
  rw [List.append_nil] at whole
  have taken := fetchFrom_ownBytes own le_rfl more
  rw [List.take_length, fetchFrom_of_decode whole, ← hrx, ← hinputs] at taken
  exact step_of_fetchFrom hc h taken

/-- Settles O8: the bytes join one by one, and the last makes the command whole. -/
theorem arrivingBytesAreOneStep : Obligations.ArrivingBytesAreOneStep :=
  fun _ _ _ hc h command wf hrx hinputs => step_of_arriving_command hc h command wf hrx hinputs

/-- Settles O9: the bytes before the event join the received ones, which hold no command yet. -/
theorem eventIsServedBetweenCommandBytes : Obligations.EventIsServedBetweenCommandBytes := by
  intro s i ev n x more hc h command wf hn hrx hx hinputs
  have own := ownBytes_encode command wf
  obtain ⟨e, incomplete⟩ := own.decode_take hn
  have taken := fetchFrom_ownBytes own hn.le (x :: more)
  rw [fetchFrom_event incomplete hx, ← hrx, ← hinputs] at taken
  exact step_of_fetchFrom hc h taken

/-- Settles O10: a hung block's fetch passes over bytes. -/
theorem hungBlockServesOnlyEvents : Obligations.HungBlockServesOnlyEvents := by
  refine fun s bs hc h => ⟨fun hinputs => step_of_fetch_none hc ?_, fun x ev more hx hinputs => step_of_fetch hc ?_⟩
  · rw [fetch_of_hung h, hinputs, fetchEvent_bytes, Option.map_none]
  · rw [fetch_of_hung h, hinputs, fetchEvent_bytes_event bs hx, Option.map_some]

/-- Settles O49: RESET leaves no received byte and no hang, so the command at the port is the next step. -/
theorem resetAbandonsTheCommandInProgress : Obligations.ResetAbandonsTheCommandInProgress := by
  intro s
  refine ⟨resetState s, exec_reset s, resetState_hung s, resetState_rx s, resetState_inputs s, resetState_busDraws s,
    fun hc i more command wf hinputs => ?_⟩
  exact step_of_arriving_command (by simpa using hc) (resetState_hung s) command (by simpa using wf)
    (resetState_rx s) (by simpa using hinputs)

end Sys2Proof.Machine
end

section
/-! What an instruction can do, said once: the effects of Table S (spec/10_state.md R42, R43), which every
statement about all instructions goes through, and the responses (30_encoding.md R98, 60_exceptions.md R262). -/

namespace Sys2Proof.Machine

/-! ### The effects -/

/-- The state an instruction leaves, and when it leaves it. -/
inductive Effect : Instr → State → State → Prop where
  /-- A hung block accepts no command (60_exceptions.md R266). -/
  | ignored {i : Instr} {s : State} (command : i.isCommand = true) (h : s.hung = true) : Effect i s s
  /-- A response and nothing else; only OK has a payload (30_encoding.md R98). -/
  | answers {i : Instr} {s : State} {st : Status} {p : List Byte} (command : i.isCommand = true)
      (h : s.hung = false) (bare : st ≠ .ok → p = []) (length : st = .ok → p.length = okPayloadLength s.cfg i) :
      Effect i s (answered st p s)
  /-- A display command that sends frames (40_display.md R134 to R141). -/
  | flushes {i : Instr} {s u : State} {n : Nat} {st : Status} (h : s.hung = false)
      (hf : flushOf i s = some (n, u, st)) : Effect i s (respond st [] (emitFrames n u))
  /-- DISP_SETTPL (R143). -/
  | setsTemplate {cu : Bool} {p : BitVec 4} {dr sc bu : Bool} {s : State} (h : s.hung = false) :
      Effect (.dispSettpl cu p dr sc bu) s (answered .ok [] { s with tpl := ⟨cu, p, dr, sc, bu⟩ })
  /-- ADC_REG with room and ns ≠ 0 (42_adcmux.md R201). -/
  | registers {sel : Byte} {ref : BitVec 2} {res : Bool} {ns : Byte} {s : State} (h : s.hung = false)
      (room : s.nchan < 10) (hns : ns ≠ 0) :
      Effect (.adcReg sel ref res ns) s
        (answered .ok [BitVec.ofNat 8 s.nchan] (startSampler (addChannel sel ref res ns s)))
  /-- ADC_GET of a ready channel (R206). -/
  | reads {id : Byte} {s : State} (h : s.hung = false) (registered : id.toNat < s.nchan)
      (ready : (s.chanAt id.toNat).ready = true) :
      Effect (.adcGet id) s (answered .ok (resultBytes (s.chanAt id.toNat).result)
        (s.setChan id.toNat { s.chanAt id.toNat with ready := false }))
  /-- TICK (41_debounce.md R171). -/
  | samples {pins : KeyVec} {s : State} : Effect (.tick pins) s (pushSample (s.rawSample pins) s)
  /-- ADC_DONE with no conversion armed (42_adcmux.md R203). -/
  | idles {r : Reading} {s : State} (idle : s.running = false) : Effect (.adcDone r) s s
  /-- ADC_DONE of a running sampler (R203). -/
  | converts {r : Reading} {s : State} (running : s.running = true) : Effect (.adcDone r) s (takeReading r s)
  /-- RESET (70_reset_and_hazards.md R300). -/
  | resets {s : State} : Effect .reset s (resetState s)

/-- A bare error is an effect of every command. -/
theorem Effect.error {i : Instr} {s : State} {st : Status} (hc : i.isCommand = true) (h : s.hung = false)
    (failed : st ≠ .ok) : Effect i s (answered st [] s) :=
  .answers hc h (fun _ => rfl) fun ok => absurd ok failed

/-- An OK whose payload has the length of Table R is one. -/
theorem Effect.ok {i : Instr} {s : State} {p : List Byte} (hc : i.isCommand = true) (h : s.hung = false)
    (length : p.length = okPayloadLength s.cfg i) : Effect i s (answered .ok p s) :=
  .answers hc h (fun failed => absurd rfl failed) fun _ => length

theorem exists_effect_of_keyQuery {i : Instr} {view : State → KeyVec} {key : Byte} {s : State}
    (h : s.hung = false) (hc : i.isCommand = true) (length : okPayloadLength s.cfg i = 1) :
    ∃ t, command (keyQuery view key) s = .next t ∧ Effect i s t := by
  rw [command_of_not_hung h, keyQuery_of_not_hung h]
  refine ⟨_, rfl, ?_⟩
  split
  · exact .ok hc h length.symm
  · exact .error hc h (by decide)

theorem isCommand_of_flushOf {i : Instr} {s u : State} {n : Nat} {st : Status}
    (hf : flushOf i s = some (n, u, st)) : i.isCommand = true := by
  cases i <;> simp_all [flushOf, Instr.isCommand]

/-- Every instruction answers a next state, which is one of the effects. -/
theorem exists_effect (i : Instr) (s : State) : ∃ t, exec i s = .next t ∧ Effect i s t := by
  by_cases stuck : i.isCommand = true ∧ s.hung = true
  · obtain ⟨hc, hung⟩ := stuck
    exact ⟨s, exec_of_hung hc hung, .ignored hc hung⟩
  have accepts (hc : i.isCommand = true) : s.hung = false := by simpa [hc] using stuck
  cases hf : flushOf i s with
  | some f =>
    obtain ⟨n, u, st⟩ := f
    have h : s.hung = false := accepts (isCommand_of_flushOf hf)
    exact ⟨_, exec_of_flushOf_some h hf, .flushes h hf⟩
  | none =>
    cases i with
    | dispInit | dispClear | dispFlush => cases hf
    | dispPuts pos chrs => cases hf
    | nop => exact ⟨_, exec_nop_of_not_hung (accepts rfl), .ok rfl (accepts rfl) rfl⟩
    | unknown op => exact ⟨_, exec_unknown_of_not_hung op (accepts rfl), .ok rfl (accepts rfl) rfl⟩
    | dispPutc pos chr =>
      have bad : charOk pos.toNat chr = false := by simpa [flushOf, charOk] using hf
      exact ⟨_, exec_dispPutc_of_not_charOk (accepts rfl) bad, .error rfl (accepts rfl) (by decide)⟩
    | dispSym sym en =>
      have bad : s.cfg.numIcons ≤ sym.toNat := by simpa [flushOf] using hf
      exact ⟨_, exec_dispSym_of_numIcons_le (accepts rfl) bad, .error rfl (accepts rfl) (by decide)⟩
    | dispSettpl cu p dr sc bu =>
      exact ⟨_, exec_dispSettpl_of_not_hung cu p dr sc bu (accepts rfl), .setsTemplate (accepts rfl)⟩
    | keyStatus key => exact exists_effect_of_keyQuery (accepts rfl) rfl rfl
    | keyPressed key => exact exists_effect_of_keyQuery (accepts rfl) rfl rfl
    | keyReleased key => exact exists_effect_of_keyQuery (accepts rfl) rfl rfl
    | keyState => exact ⟨_, exec_keyState_of_not_hung (accepts rfl), .ok rfl (accepts rfl) (bytesLE_length ..)⟩
    | keyPress => exact ⟨_, exec_keyPress_of_not_hung (accepts rfl), .ok rfl (accepts rfl) (bytesLE_length ..)⟩
    | keyClassify v =>
      exact ⟨_, exec_keyClassify_of_not_hung v (accepts rfl), .ok rfl (accepts rfl) (bytesLE_length ..)⟩
    | adcReg sel ref res ns =>
      refine ⟨_, exec_adcReg_of_not_hung sel ref res ns (accepts rfl), ?_⟩
      split
      next => exact .error rfl (accepts rfl) (by decide)
      next room =>
        split
        next => exact .error rfl (accepts rfl) (by decide)
        next hns => exact .registers (accepts rfl) (Nat.not_le.mp room) hns
    | adcGet id =>
      refine ⟨_, exec_adcGet_of_not_hung id (accepts rfl), ?_⟩
      split
      next => exact .error rfl (accepts rfl) (by decide)
      next registered =>
        split
        next ready => exact .reads (accepts rfl) (Nat.not_le.mp registered) ready
        next => exact .error rfl (accepts rfl) (by decide)
    | tick pins => exact ⟨_, exec_tick pins s, .samples⟩
    | adcDone r =>
      rcases Bool.eq_false_or_eq_true s.running with running | idle
      · exact ⟨_, exec_adcDone_of_running r running, .converts running⟩
      · exact ⟨_, exec_adcDone_of_idle r idle, .idles idle⟩
    | reset => exact ⟨_, exec_reset s, .resets⟩

theorem effect_of_exec {i : Instr} {s t : State} (h : exec i s = .next t) : Effect i s t := by
  obtain ⟨u, e, effect⟩ := exists_effect i s
  rw [h] at e
  cases e
  exact effect

/-! ### The channel table (42_adcmux.md R201, R203, R206) -/

@[simp] theorem answered_chanAt (st : Status) (p : List Byte) (s : State) (k : Nat) :
    (answered st p s).chanAt k = s.chanAt k := rfl

@[simp] theorem startSampler_chanAt (s : State) (k : Nat) : (startSampler s).chanAt k = s.chanAt k := by
  rw [State.chanAt, startSampler_chan, State.chanAt]

theorem addChannel_chanAt_cases (sel : Byte) (ref : BitVec 2) (res : Bool) (ns : Byte) (s : State) (k : Nat) :
    (addChannel sel ref res ns s).chanAt k = s.chanAt k ∨
      k = s.nchan ∧ (addChannel sel ref res ns s).chanAt k = ⟨sel, ref, res, ns, 0, false⟩ :=
  chanAt_setChan_cases s s.nchan k ⟨sel, ref, res, ns, 0, false⟩

/-- The ns-th sample publishes, any other accumulates (R203). -/
theorem takeReading_eq (r : Reading) (s : State) : takeReading r s =
    if s.cnt + 1 = (s.chanAt s.cur).ns then publish (s.acc + sample (s.chanAt s.cur).res r) s
    else { s with acc := s.acc + sample (s.chanAt s.cur).res r, cnt := s.cnt + 1 } := rfl

theorem takeReading_chanAt_cases (r : Reading) (s : State) (k : Nat) :
    (takeReading r s).chanAt k = s.chanAt k ∨
      (s.cnt + 1 = (s.chanAt s.cur).ns ∧ s.cur = k) ∧
        ∃ v, (takeReading r s).chanAt k = { s.chanAt k with result := v, ready := true } := by
  rw [takeReading_eq]
  split
  next full =>
    rcases chanAt_setChan_cases s s.cur k { s.chanAt s.cur with
        result := ((s.acc + sample (s.chanAt s.cur).res r) / (s.chanAt s.cur).ns.setWidth 18).setWidth 10
        ready := true } with kept | ⟨rfl, written⟩
    · exact .inl kept
    · exact .inr ⟨⟨full, rfl⟩, _, written⟩
  next => exact .inl rfl

/-- What an instruction does to one record of the channel table. -/
theorem Effect.chanAt_cases {i : Instr} {s t : State} (e : Effect i s t) (k : Nat) :
    t.chanAt k = s.chanAt k ∨
    (∃ r v, i = .adcDone r ∧ publishTarget s = some k ∧
      t.chanAt k = { s.chanAt k with result := v, ready := true }) ∨
    (∃ id, i = .adcGet id ∧ k = id.toNat ∧ t.chanAt k = { s.chanAt k with ready := false }) ∨
    (∃ sel ref res ns, i = .adcReg sel ref res ns ∧ k = s.nchan ∧ t.chanAt k = ⟨sel, ref, res, ns, 0, false⟩) ∨
    i = .reset := by
  cases e with
  | flushes h hf =>
    obtain ⟨m, il, rfl, _⟩ := flushOf_writes hf
    exact .inl (by simp [State.chanAt])
  | @registers sel ref res ns _ h room hns =>
    simp only [answered_chanAt, startSampler_chanAt]
    rcases addChannel_chanAt_cases sel ref res ns s k with kept | ⟨hk, written⟩
    · exact .inl kept
    · exact .inr (.inr (.inr (.inl ⟨sel, ref, res, ns, rfl, hk, written⟩)))
  | @reads id _ h registered ready =>
    simp only [answered_chanAt]
    rcases chanAt_setChan_cases s id.toNat k { s.chanAt id.toNat with ready := false } with kept | ⟨rfl, written⟩
    · exact .inl kept
    · exact .inr (.inr (.inl ⟨id, rfl, rfl, written⟩))
  | @converts r _ running =>
    rcases takeReading_chanAt_cases r s k with kept | ⟨⟨full, hk⟩, v, written⟩
    · exact .inl kept
    · exact .inr (.inl ⟨r, v, rfl, publishTarget_eq_some.mpr ⟨running, full, hk⟩, written⟩)
  | resets => simp
  | _ => exact .inl rfl

/-! ### The rows of Table S (10_state.md R42, R43) -/

section Rows
variable {i : Instr} {s t : State}

theorem Effect.mem_row (e : Effect i s t) : t.mem = s.mem ∨ i = .dispClear ∨ (∃ p c, i = .dispPutc p c) ∨
    (∃ p l, i = .dispPuts p l) ∨ (∃ y e, i = .dispSym y e) ∨ i = .reset := by
  cases e with
  | flushes h hf =>
    obtain ⟨m, il, rfl, writer⟩ := flushOf_writes hf
    simpa [or_assoc] using Or.inl (b := i = .reset) writer
  | resets => simp
  | _ => exact .inl (by simp)

theorem Effect.tpl_row (e : Effect i s t) :
    t.tpl = s.tpl ∨ (∃ cu p dr sc bu, i = .dispSettpl cu p dr sc bu) ∨ i = .reset := by
  cases e with
  | flushes h hf =>
    obtain ⟨m, il, rfl, _⟩ := flushOf_writes hf
    exact .inl (by simp)
  | setsTemplate => simp
  | resets => simp
  | _ => exact .inl (by simp)

/-- The bus, its draws and a hang come with frames alone. -/
theorem Effect.bus_row (e : Effect i s t) :
    t.initLeft = s.initLeft ∧ t.bus = s.bus ∧ t.hung = s.hung ∧ t.busDraws = s.busDraws ∨ flushOf i s ≠ none ∨
      i = .reset ∧ t.busDraws = s.busDraws := by
  cases e with
  | flushes h hf => simp [hf]
  | resets => simp
  | _ => exact .inl (by simp)

theorem Effect.debounce_row (e : Effect i s t) :
    t.ring = s.ring ∧ t.ridx = s.ridx ∧ t.stable = s.stable ∧ t.changed = s.changed ∨ (∃ p, i = .tick p) ∨
      i = .reset := by
  cases e with
  | flushes h hf =>
    obtain ⟨m, il, rfl, _⟩ := flushOf_writes hf
    exact .inl (by simp)
  | samples => simp
  | resets => simp
  | _ => exact .inl (by simp)

theorem Effect.nchan_row (e : Effect i s t) :
    t.nchan = s.nchan ∨ (∃ a b c d, i = .adcReg a b c d) ∧ t.nchan = s.nchan + 1 ∨ i = .reset := by
  cases e with
  | flushes h hf =>
    obtain ⟨m, il, rfl, _⟩ := flushOf_writes hf
    exact .inl (by simp)
  | registers => simp
  | resets => simp
  | _ => exact .inl (by simp)

theorem Effect.chan_length_row (e : Effect i s t) : t.chan.length = s.chan.length ∨ i = .reset := by
  cases e with
  | flushes h hf =>
    obtain ⟨m, il, rfl, _⟩ := flushOf_writes hf
    exact .inl (by simp)
  | @converts r _ running =>
    refine .inl ?_
    rw [takeReading_eq]
    split
    next => exact List.length_set
    next => rfl
  | resets => simp
  | _ => exact .inl (by simp)

/-- The sampler is moved by ADC_DONE and started by the first ADC_REG. -/
theorem Effect.sampler_row (e : Effect i s t) :
    t.cur = s.cur ∧ t.acc = s.acc ∧ t.cnt = s.cnt ∧ t.running = s.running ∨
    (∃ r, i = .adcDone r) ∧ s.running = true ∧ t.running = s.running ∧
      (t.cur = s.cur ∨ publishTarget s = some s.cur) ∨
    (∃ a b c d, i = .adcReg a b c d) ∧ s.running = false ∧ t.running = true ∧ t.cur = 0 ∧ t.acc = 0 ∧ t.cnt = 0 ∨
    i = .reset := by
  cases e with
  | flushes h hf =>
    obtain ⟨m, il, rfl, _⟩ := flushOf_writes hf
    exact .inl (by simp)
  | registers h room hns =>
    rcases Bool.eq_false_or_eq_true s.running with running | idle
    · exact .inl (by simp [startSampler_eq, running])
    · exact .inr (.inr (.inl (by simp [startSampler_eq, idle])))
  | @converts r _ running =>
    refine .inr (.inl ⟨⟨r, rfl⟩, running, takeReading_running r s, ?_⟩)
    rw [takeReading_eq]
    split
    next full => exact .inr (publishTarget_eq_some.mpr ⟨running, full, rfl⟩)
    next => exact .inl rfl
  | resets => simp
  | _ => exact .inl (by simp)

/-- What the block is built with and what arrives is written by no instruction (10_state.md R21). -/
theorem Effect.environment_row (e : Effect i s t) :
    t.cfg = s.cfg ∧ t.inputs = s.inputs ∧ (t.rx = s.rx ∨ i = .reset) := by
  cases e with
  | flushes h hf =>
    obtain ⟨m, il, rfl, _⟩ := flushOf_writes hf
    simp
  | _ => simp

theorem Effect.cfg_eq (e : Effect i s t) : t.cfg = s.cfg := e.environment_row.1

theorem Effect.rsp_row (e : Effect i s t) : t.rsp = s.rsp ∨ i.isCommand = true := by
  cases e with
  | answers command => exact .inr command
  | flushes h hf => exact .inr (isCommand_of_flushOf hf)
  | setsTemplate | registers | reads => exact .inr rfl
  | _ => exact .inl (by simp)

end Rows

/-- Settles O54: each row is a lemma over the effects; the fields of a record come from `Effect.chanAt_cases`. -/
theorem onlyTheWritersWrite : Obligations.OnlyTheWritersWrite := by
  intro s t i h
  have e := effect_of_exec h
  obtain ⟨cfg_eq, inputs_eq, rx_row⟩ := e.environment_row
  refine ⟨e.mem_row, e.tpl_row, ?frames, e.debounce_row, ?nchan, fun k => ?record, e.chan_length_row, ?cur, ?acc,
    ?running, cfg_eq, inputs_eq, rx_row, e.rsp_row, ?hung, ?draws⟩
  case frames =>
    rcases e.bus_row with ⟨initLeft_eq, bus_eq, _⟩ | flushed | ⟨reset, _⟩
    · exact .inl ⟨initLeft_eq, bus_eq⟩
    · exact .inr (.inl flushed)
    · exact .inr (.inr reset)
  case nchan =>
    rcases e.nchan_row with kept | ⟨registered, _⟩ | reset
    · exact .inl kept
    · exact .inr (.inl registered)
    · exact .inr (.inr reset)
  case record =>
    rcases e.chanAt_cases k with kept | ⟨r, v, hi, target, written⟩ | ⟨id, hi, hk, written⟩ |
        ⟨a, b, c, d, hi, hk, written⟩ | reset
    · simp [kept]
    · simp [hi, target, written]
    · simp [hi, hk ▸ written, hk]
    · simp [hi, hk ▸ written, hk]
    · simp [reset]
  case cur =>
    rcases e.sampler_row with ⟨kept, _⟩ | ⟨converted, _, _, kept | target⟩ | ⟨registered, idle, _, cur_eq, _⟩ | reset
    · exact .inl kept
    · exact .inl kept
    · exact .inr (.inl ⟨converted, target⟩)
    · exact .inr (.inr (.inl ⟨registered, idle, cur_eq⟩))
    · exact .inr (.inr (.inr reset))
  case acc =>
    rcases e.sampler_row with ⟨_, acc_eq, cnt_eq, _⟩ | ⟨converted, running, _⟩ |
        ⟨registered, idle, _, _, acc_eq, cnt_eq⟩ | reset
    · exact .inl ⟨acc_eq, cnt_eq⟩
    · exact .inr (.inl ⟨converted, running⟩)
    · by_cases inv : MuxInv s
      · obtain ⟨_, acc_zero, cnt_zero⟩ := inv.idle_zero idle
        exact .inl ⟨acc_eq.trans acc_zero.symm, cnt_eq.trans cnt_zero.symm⟩
      · exact .inr (.inr (.inl ⟨registered, idle, acc_eq, cnt_eq, inv⟩))
    · exact .inr (.inr (.inr reset))
  case running =>
    rcases e.sampler_row with ⟨_, _, _, kept⟩ | ⟨_, _, kept, _⟩ | ⟨registered, idle, started, _⟩ | reset
    · exact .inl kept
    · exact .inl kept
    · exact .inr (.inl ⟨registered, idle, started⟩)
    · exact .inr (.inr reset)
  case hung =>
    rcases e.bus_row with ⟨_, _, kept, _⟩ | flushed | ⟨reset, _⟩
    · exact .inl kept
    · exact .inr (.inl flushed)
    · exact .inr (.inr reset)
  case draws =>
    rcases e.bus_row with ⟨_, _, _, kept⟩ | flushed | ⟨_, kept⟩
    · exact .inl kept
    · exact .inr flushed
    · exact .inl kept

/-! ### Steps answer (60_exceptions.md R260, R263) -/

/-- Settles O53: a step either waits or executes, and every instruction has an effect. -/
theorem everyStepAnswersANextState : Obligations.EveryStepAnswersANextState := by
  intro s hc
  cases found : fetch s with
  | none => exact ⟨s, step_of_fetch_none hc found, rfl⟩
  | some f =>
    obtain ⟨i, u⟩ := f
    obtain ⟨rx, inputs, rfl⟩ := fetch_writes found
    obtain ⟨t, executed, e⟩ := exists_effect i { s with rx := rx, inputs := inputs }
    exact ⟨t, (step_of_fetch hc found).trans executed, e.cfg_eq⟩

theorem step_of_not_wf {s : State} (hc : s.cfg.wf = false) : step s = .refused .illFormedConfig :=
  if_neg (Bool.eq_false_iff.mp hc)

theorem step_refused_iff (s : State) : s.cfg.wf = false ↔ step s = .refused .illFormedConfig := by
  refine ⟨step_of_not_wf, fun refused => Bool.eq_false_iff.mpr fun hc => ?_⟩
  obtain ⟨t, answered, _⟩ := everyStepAnswersANextState s hc
  rw [refused] at answered
  cases answered

/-- R8 (d): an address of the tables, by its two fields. -/
theorem address_fields_of_wf {c : Config} (hc : c.wf = true) {a : SegmentAddress}
    (ha : a ∈ c.iconMap ∨ ∃ row ∈ c.charMap, a ∈ row) : (wordIndex a).toNat ≤ 2 ∧ (bitIndex a).toNat ≤ 63 := by
  have inside := address_lt_of_wf hc ha
  have bit_lt := (bitIndex a).isLt
  rw [wordIndex_toNat]
  omega

/-- R8 (f): each breakpoint is above the next. -/
theorem thresh_descends_of_wf {c : Config} (hc : c.wf = true) {j : Nat} {e f : ThresholdEntry}
    (he : c.thresholds[j]? = some e) (hf : c.thresholds[j + 1]? = some f) : f.thresh < e.thresh := by
  obtain ⟨hj, rfl⟩ := List.getElem?_eq_some_iff.mp he
  obtain ⟨hj', rfl⟩ := List.getElem?_eq_some_iff.mp hf
  have sorted := (strictlyDescending_iff_sortedGT c.thresholds).mp (Config.strictlyDescending_of_wf hc)
  have ordered : (c.thresholds.map (·.thresh.toNat))[j + 1]'(by simpa) <
      (c.thresholds.map (·.thresh.toNat))[j]'(by simpa) := sorted.getElem_gt_getElem_of_lt j.lt_succ_self
  rwa [List.getElem_map, List.getElem_map, ← BitVec.lt_def] at ordered

/-- R8 (g) to (i). -/
theorem bounds_of_wf {c : Config} (hc : c.wf = true) :
    1 ≤ c.thresholds.length ∧ c.keyChannel < 10 ∧ 1 ≤ c.depth := by
  simp only [Config.wf, Config.wfThresholds, Bool.and_eq_true, decide_eq_true_eq] at hc
  obtain ⟨⟨⟨_, ⟨_, breakpoints⟩, _⟩, channel⟩, depth⟩ := hc
  exact ⟨breakpoints, channel, depth⟩

/-- Settles O12: no instruction refuses, and each clause of R8 is read off `Config.wf`. -/
theorem illFormedConfigurationIsRefused : Obligations.IllFormedConfigurationIsRefused := by
  refine ⟨step_refused_iff, fun c hc => ?_⟩
  obtain ⟨hcount, hpos, hle⟩ := numChunks_spec hc
  refine ⟨by omega, by omega, by omega, by omega,
    fun row hrow a ha => address_fields_of_wf hc (.inr ⟨row, hrow, ha⟩),
    fun a ha => address_fields_of_wf hc (.inl ha), fun p i j hp hi hj same => ?_,
    fun j e f => thresh_descends_of_wf hc, bounds_of_wf hc⟩
  obtain ⟨_, distinct⟩ := charAddr_spec hc (Nat.le_of_lt_succ hp)
  exact distinct i j hi hj (congrArg linearIndex same)

/-- Settles O11: commands are ignored, the two events write the debounce and analog groups, RESET ends the hang. -/
theorem hungBlockAcceptsNoCommand : Obligations.HungBlockAcceptsNoCommand := by
  intro s i h
  refine ⟨fun hc => exec_of_hung hc h, fun event => ?_, resetState s, exec_reset s, resetState_hung s⟩
  obtain ⟨t, executed, e⟩ := exists_effect i s
  refine ⟨t, executed, ?_⟩
  cases e with
  | ignored command => cases i <;> simp_all [isEvent, Instr.isCommand]
  | samples | idles | converts => simp [h]
  | _ => simp_all [isEvent]

/-! ### Responses (30_encoding.md R98, 60_exceptions.md R262) -/

/-- R98 and Table E: the status code, then the payload. -/
theorem Response.bytes_eq (r : Response) : r.bytes =
    (if r.status = .ok then 0x00 else if r.status = .cfgErr then 0x01
      else if r.status = .capErr then 0x02 else 0x03) :: r.payload := by
  obtain ⟨status, payload⟩ := r
  cases status <;> rfl

/-- A command that sends frames answers no payload. -/
theorem okPayloadLength_of_flushOf {i : Instr} {s u : State} {n : Nat} {st : Status}
    (hf : flushOf i s = some (n, u, st)) (c : Config) : okPayloadLength c i = 0 := by
  cases i <;> simp_all [flushOf, okPayloadLength]

/-- Only DISP_PUTS answers an error after frames (40_display.md R139). -/
theorem status_of_flushOf {i : Instr} {s u : State} {n : Nat} {st : Status}
    (hf : flushOf i s = some (n, u, st)) : st = .ok ∨ ∃ p l, i = .dispPuts p l := by
  cases i <;> simp_all [flushOf]

/-- A hung transfer never responds; one that completes gives its status alone. -/
theorem flush_rsp {i : Instr} {s u : State} {n : Nat} {st : Status} (hf : flushOf i s = some (n, u, st)) :
    (respond st [] (emitFrames n u)).rsp =
      if (emitFrames n u).hung then s.rsp else s.rsp ++ [⟨st, []⟩] := by
  obtain ⟨m, il, rfl, _⟩ := flushOf_writes hf
  rw [respond]
  split <;> simp

/-- A command that is accepted and does not hang adds one response, as Table R says. -/
theorem Effect.response {i : Instr} {s t : State} (e : Effect i s t) (hc : i.isCommand = true)
    (h : s.hung = false) (done : t.hung = false) : ∃ r : Response, t.rsp = s.rsp ++ [r] ∧
      (r.status ≠ .ok → r.payload = []) ∧ (r.status = .ok → r.payload.length = okPayloadLength s.cfg i) := by
  cases e with
  | ignored _ hung => simp [h] at hung
  | @answers _ _ st p _ _ bare length => exact ⟨⟨st, p⟩, rfl, bare, length⟩
  | @flushes _ _ u n st _ hf =>
    have sent : (emitFrames n u).hung = false := by simpa using done
    refine ⟨⟨st, []⟩, by rw [flush_rsp hf, sent]; rfl, fun _ => rfl, fun _ => ?_⟩
    rw [okPayloadLength_of_flushOf hf]
    rfl
  | setsTemplate => exact ⟨⟨.ok, []⟩, rfl, fun _ => rfl, fun _ => rfl⟩
  | registers => exact ⟨⟨.ok, [BitVec.ofNat 8 s.nchan]⟩, by simp, fun failed => absurd rfl failed, fun _ => rfl⟩
  | @reads id => exact ⟨⟨.ok, resultBytes _⟩, rfl, fun failed => absurd rfl failed, fun _ => rfl⟩
  | samples | idles | converts | resets => cases hc

/-- Settles O55: the response of the effect, and its bytes by Table E. -/
theorem oneResponsePerCommand : Obligations.OneResponsePerCommand := by
  intro s t i executed
  have e := effect_of_exec executed
  refine ⟨fun hc h done => ?_, fun event => ?_⟩
  · obtain ⟨r, given, bare, length⟩ := e.response hc h done
    exact ⟨r, given, bare, length, r.bytes_eq⟩
  · rcases e.rsp_row with kept | hc
    · exact kept
    · rw [event] at hc
      cases hc

/-- Settles O56: of the effects with a response, all but `answers` and the flush of DISP_PUTS answer OK. -/
theorem errorLeavesTheStateAlone : Obligations.ErrorLeavesTheStateAlone := by
  intro s t i r hc notPuts executed given failed
  cases effect_of_exec executed with
  | ignored => simp at given
  | answers =>
    cases List.append_cancel_left given
    rfl
  | flushes h hf =>
    rw [flush_rsp hf] at given
    split at given
    · simp at given
    · cases List.append_cancel_left given
      rcases status_of_flushOf hf with ok | ⟨p, l, puts⟩
      · exact absurd ok failed
      · exact absurd puts (notPuts p l)
  | setsTemplate | registers | reads =>
    have ok : r.status = .ok := by
      simp at given
      rw [← given]
    exact absurd ok failed
  | samples | idles | converts | resets => cases hc

end Sys2Proof.Machine
end

section
/-! The trace (spec/30_encoding.md R108 to R110, 40_display.md R145, 60_exceptions.md R266): one transaction on
the wire, chip-select between transactions, and what a flush leaves on a bus that may hang. -/

namespace Sys2Proof.Machine

/-! ### One transaction (R108, R109) -/

theorem frameEvents_eq (c : Config) (F : FrameWord) :
    frameEvents c F = .csLow :: .byte c.devAddr :: ((frameBytes F).map .byte ++ [.csHigh]) := rfl

theorem frameBytes_length (F : FrameWord) : (frameBytes F).length = 8 := by
  rw [frameBytes, List.length_map, List.length_range]

theorem frameEvents_getElem?_byte (c : Config) (F : FrameWord) {j : Nat} (hj : j < 8) :
    (frameEvents c F)[j + 2]? = some (.byte (F.extractLsb' (8 * j) 8)) := by
  have inBytes : j < ((frameBytes F).map BusEvent.byte).length := by
    rw [List.length_map, frameBytes_length]
    exact hj
  rw [frameEvents_eq, List.getElem?_cons_succ, List.getElem?_cons_succ, List.getElem?_append_left inBytes,
    List.getElem?_map, frameBytes_getElem? F hj, Option.map_some]

/-- R109: the eight bytes, each low bit first, are the frame word low bit first. -/
theorem serialBits_frameBytes (F : FrameWord) :
    serialBits ((frameBytes F).map .byte) = (List.range 64).map F.getLsbD := by
  have places : List.range 64 = (List.range 8).flatMap fun j => (List.range 8).map (8 * j + ·) := by decide
  have byteBits (j : Nat) : (List.range 8).map (F.extractLsb' (8 * j) 8).getLsbD =
      (List.range 8).map fun k => F.getLsbD (8 * j + k) := by
    refine List.map_congr_left fun k hk => ?_
    rw [BitVec.getLsbD_extractLsb', decide_eq_true (List.mem_range.mp hk), Bool.true_and]
  rw [places, serialBits, frameBytes, List.map_map, List.flatMap_map, List.map_flatMap]
  simp only [Function.comp_apply, BusEvent.serialBits, byteBits, List.map_map, Function.comp_def]

theorem serialBits_append (as bs : List BusEvent) : serialBits (as ++ bs) = serialBits as ++ serialBits bs :=
  List.flatMap_append

theorem serialBits_frameEvents (c : Config) (F : FrameWord) : serialBits (frameEvents c F) =
    (List.range 8).map c.devAddr.getLsbD ++ (List.range 64).map F.getLsbD := by
  have address : frameEvents c F =
      [.csLow, .byte c.devAddr] ++ ((frameBytes F).map .byte ++ [.csHigh]) := rfl
  rw [address, serialBits_append, serialBits_append, serialBits_frameBytes]
  simp [serialBits, BusEvent.serialBits]

/-- Settles O18: the events of `frameEvents_eq`, and their bits. -/
theorem transactionOnTheWire : Obligations.TransactionOnTheWire := by
  refine fun c F => ⟨rfl, ?_, frameEvents_length c F, fun j => frameEvents_getElem?_byte c F, rfl,
    serialBits_frameEvents c F⟩
  rw [frameEvents_eq, ← List.cons_append, ← List.cons_append, List.getLast?_append]
  rfl

/-! ### Chip-select (R110) -/

theorem chipSelectFrom_frameEvents (level : Bool) (c : Config) (F : FrameWord) :
    chipSelectFrom level (frameEvents c F) = true := by
  rw [frameEvents_eq, chipSelectFrom, chipSelectFrom, chipSelectFrom_bytes]
  rfl

theorem chipSelectFrom_traceOf (c : Config) (Fs : List FrameWord) : chipSelectFrom true (traceOf c Fs) = true := by
  induction Fs with
  | nil => rfl
  | cons F Fs ih => rw [traceOf_cons, chipSelectFrom_append, chipSelectFrom_frameEvents, ih]

/-- Settles O59: each transaction ends with chip-select high. -/
theorem chipSelectIsHighBetweenSteps : Obligations.ChipSelectIsHighBetweenSteps := by
  intro s inv h
  obtain ⟨Fs, whole⟩ := inv.trace_whole h
  rw [State.csN, whole, chipSelectFrom_traceOf]

/-! ### Transfers on a bus that may hang (60_exceptions.md R266) -/

/-- Settles O30: the closed form of the frames, and a response exactly if the bus did not stop. -/
theorem hangCutsTheTransfer : Obligations.HangCutsTheTransfer := by
  intro s p i n st h hm hf
  obtain ⟨m, il, rfl, _⟩ := flushOf_writes hf
  rw [exec_of_flushOf_some h hf, emitFrames_mayHang (s := { s with mem := m, initLeft := il }) n h hm]
  cases stops : stopsWithin s.busDraws (11 * n) with
  | true =>
    rw [respond_of_hung (by exact stops)]
    simp [sentFramesMayHang, eventsPerFrame, stops]
  | false =>
    rw [respond_of_not_hung (by exact stops)]
    simp [sentFramesMayHang, eventsPerFrame, stops, answered]

/-- Frames that did not hang are all on the trace. -/
theorem emitFrames_bus_of_not_hung {n : Nat} {s : State} (h : s.hung = false)
    (done : (emitFrames n s).hung = false) :
    (emitFrames n s).bus = s.bus ++ traceOf s.cfg (framesOf n s) := by
  rcases Bool.eq_false_or_eq_true s.cfg.busMayHang with hm | hm
  · rw [emitFrames_mayHang n h hm] at done ⊢
    have driven := drivenOf_of_goes (ds := s.busDraws) (a := eventsPerFrame * n) done
    rw [sentFramesMayHang_bus, driven, List.take_of_length_le (by simp)]
  · rw [emitFrames_of_noHang n h hm, sentFrames_bus]

/-- Every command that flushes but DISP_INIT sends each chunk once (40_display.md R133). -/
theorem flushOf_eq_flush {i : Instr} {s u : State} {n : Nat} {st : Status} (hf : flushOf i s = some (n, u, st))
    (hi : i ≠ .dispInit) : n = s.cfg.numChunks ∧ ∃ m, u = { s with mem := m } := by
  cases i <;> simp only [flushOf, reduceCtorEq] at hf
  case dispInit => exact absurd rfl hi
  case dispFlush => cases hf; exact ⟨rfl, s.mem, rfl⟩
  case dispClear => cases hf; exact ⟨rfl, _, rfl⟩
  case dispPuts => cases hf; exact ⟨rfl, _, rfl⟩
  case dispPutc | dispSym => split at hf <;> cases hf; exact ⟨rfl, _, rfl⟩

/-- R145 for a flush that was not stopped. -/
theorem busShowsMemory_of_flush {s t : State} (hc : s.cfg.wf = true) (cfg_eq : t.cfg = s.cfg) (mem_eq : t.mem = s.mem)
    (bus_eq : t.bus = s.bus ++ traceOf s.cfg (framesOf s.cfg.numChunks s)) : BusShowsMemory t := by
  obtain ⟨_, _, hle⟩ := numChunks_spec hc
  refine ⟨s.bus, framesOf s.cfg.numChunks s, by rw [bus_eq, cfg_eq], ?_, ?_⟩
  · rw [framesOf_map_frameData s (by omega), cfg_eq, mem_eq]
  · rw [framesOf_map_frameDd s (by omega), cfg_eq]

/-- Settles O29: of all effects of commands, frames alone change W or the trace. -/
theorem displayShowsMemory : Obligations.DisplayShowsMemory := by
  intro s t i hc command hi executed done changes
  cases effect_of_exec executed with
  | flushes h hf =>
    obtain ⟨rfl, m, rfl⟩ := flushOf_eq_flush hf hi
    rw [respond_hung] at done
    have bus_eq := emitFrames_bus_of_not_hung (s := { s with mem := m }) h done
    exact busShowsMemory_of_flush (s := { s with mem := m }) hc (by simp) (by simp) (by simpa using bus_eq)
  | ignored | answers | setsTemplate | registers | reads => simp at changes
  | samples | idles | converts | resets => cases command

end Sys2Proof.Machine
end

section
/-! The debouncer over runs of TICKs (spec/41_debounce.md R173, R174): the ring as a window of the last N
samples, and the edge views of its changes (10_state.md R36). -/

namespace Sys2Proof.Machine

/-! ### The edge views (10_state.md R36) -/

/-- Settles O35: bit by bit below KW; from KW on there is no change. -/
theorem edgeViewsExcludeEachOther : Obligations.EdgeViewsExcludeEachOther := by
  intro s hstable hchanged
  have noChange {k : Nat} (hk : s.cfg.kw ≤ k) : s.changed.testBit k = false :=
    Nat.testBit_lt_two_pow (hchanged.trans_le (Nat.pow_le_pow_right (by decide) hk))
  have released_eq (k : Nat) : s.released.testBit k = (s.changed.testBit k && !s.stable.testBit k) := by
    by_cases hk : k < s.cfg.kw
    · exact s.released_testBit hk
    · rw [State.released, Nat.testBit_and, noChange (Nat.not_lt.mp hk), Bool.false_and, Bool.false_and]
  have views : ∀ changed stable : Bool,
      ((changed && stable) && (changed && !stable)) = false ∧ ((changed && stable) && stable) = (changed && stable) ∧
        ((changed && !stable) && stable) = false ∧ ((changed && stable) || (changed && !stable)) = changed := by
    decide
  have bits (k : Nat) := views (s.changed.testBit k) (s.stable.testBit k)
  simp only [← s.pressed_testBit, ← released_eq, ← Nat.testBit_and, ← Nat.testBit_or, forall_and] at bits
  obtain ⟨apart, inside, outside, changes⟩ := bits
  exact ⟨Nat.eq_of_testBit_eq fun k => (apart k).trans (Nat.zero_testBit k).symm, Nat.eq_of_testBit_eq inside,
    Nat.eq_of_testBit_eq fun k => (outside k).trans (Nat.zero_testBit k).symm, Nat.eq_of_testBit_eq changes⟩

/-! ### The window (10_state.md R32, R33) -/

/-- The ring from its index on, oldest sample first, holds the samples `w`. -/
structure Window (s : State) (w : List KeyVec) : Prop where
  ring_length : s.ring.length = s.cfg.depth
  ridx_lt : s.ridx < s.cfg.depth
  rotated : s.ring.rotate s.ridx = w

/-- Writing over the oldest entry and moving on. -/
theorem rotate_set_succ {ring : List KeyVec} {k : Nat} (hk : k < ring.length) (v : KeyVec) :
    (ring.set k v).rotate (k + 1) = (ring.rotate k).tail ++ [v] := by
  rw [List.rotate_eq_drop_append_take (by simpa using hk), List.rotate_eq_drop_append_take hk.le,
    List.drop_set_of_lt k.lt_succ_self, List.take_set, List.take_succ_eq_append_getElem hk,
    List.drop_eq_getElem_cons hk, List.cons_append, List.tail_cons, List.append_assoc]
  congr 1
  rw [List.set_append]
  simp [hk.le]

theorem Window.push {s : State} {w : List KeyVec} (h : Window s w) (raw : KeyVec) :
    Window (pushSample raw s) (w.tail ++ [raw]) := by
  obtain ⟨hlen, hidx, rfl⟩ := h
  have pos : 0 < s.cfg.depth := Nat.zero_lt_of_lt hidx
  refine ⟨by simpa using hlen, by simpa using Nat.mod_lt _ pos, ?_⟩
  have inside : s.ridx < s.ring.length := by omega
  rw [pushSample_ring, pushSample_ridx, ← rotate_set_succ inside, ← hlen]
  conv_lhs => rw [← List.length_set (as := s.ring) (i := s.ridx) (a := raw), List.rotate_mod]

/-- The debounced bit is 1 exactly if it is 1 in the whole window (41_debounce.md R173). -/
theorem Window.andAll_testBit {s : State} {w : List KeyVec} (h : Window s w) (k : Nat) :
    (andAll s.ring).testBit k = w.all (·.testBit k) := by
  obtain ⟨hlen, hidx, rfl⟩ := h
  have nonempty : s.ring ≠ [] := List.ne_nil_of_length_pos (by omega)
  rw [Sys2Proof.Machine.andAll_testBit nonempty]
  exact (List.Perm.all_eq (List.rotate_perm s.ring s.ridx)).symm

/-! ### Runs of TICKs (41_debounce.md R173, R174) -/

/-- The state after TICKs with these pins, one after another. -/
def afterTicks (ps : List KeyVec) (s : State) : State :=
  ps.foldl (fun s p => pushSample (s.rawSample p) s) s

theorem execAll_eq_afterTicks (ps : List KeyVec) (s : State) :
    execAll (ps.map Instr.tick) s = .next (afterTicks ps s) := execAll_ticks ps s

theorem afterTicks_cons (p : KeyVec) (ps : List KeyVec) (s : State) :
    afterTicks (p :: ps) s = afterTicks ps (pushSample (s.rawSample p) s) := rfl

/-- A TICK writes neither the averages nor the configuration, so equal pins give equal samples. -/
theorem rawSample_pushSample (raw : KeyVec) (s : State) : (pushSample raw s).rawSample = s.rawSample := rfl

theorem afterTicks_concat (ps : List KeyVec) (p : KeyVec) (s : State) :
    afterTicks (ps ++ [p]) s = pushSample (s.rawSample p) (afterTicks ps s) := by
  induction ps generalizing s with
  | nil => rfl
  | cons q ps ih => rw [List.cons_append, afterTicks_cons, ih, rawSample_pushSample, afterTicks_cons]

/-- The samples come in at the new end and push the oldest ones out. -/
theorem Window.afterTicks {s : State} {w : List KeyVec} (h : Window s w) (ps : List KeyVec) :
    Window (afterTicks ps s) ((w ++ ps.map s.rawSample).drop ps.length) := by
  induction ps generalizing s w with
  | nil => simpa [Machine.afterTicks] using h
  | cons p ps ih =>
    have shifted := ih (h.push (s.rawSample p))
    have nonempty : w ≠ [] := by
      obtain ⟨hlen, hidx, rfl⟩ := h
      exact List.ne_nil_of_length_pos (by rw [List.length_rotate]; omega)
    obtain ⟨oldest, later, rfl⟩ := List.exists_cons_of_ne_nil nonempty
    simpa [afterTicks_cons, rawSample_pushSample] using shifted

theorem afterTicks_ridx {s : State} (h : s.ridx < s.cfg.depth) (ps : List KeyVec) :
    (afterTicks ps s).ridx = (s.ridx + ps.length) % s.cfg.depth := by
  induction ps generalizing s with
  | nil => exact (Nat.mod_eq_of_lt h).symm
  | cons p ps ih =>
    have next : (pushSample (s.rawSample p) s).ridx < s.cfg.depth := Nat.mod_lt _ (Nat.zero_lt_of_lt h)
    rw [afterTicks_cons, ih next, pushSample_cfg, pushSample_ridx, Nat.mod_add_mod, List.length_cons]
    congr 1
    omega

theorem afterTicks_stable {ps : List KeyVec} (h : ps ≠ []) (s : State) :
    (afterTicks ps s).stable = andAll (afterTicks ps s).ring := by
  obtain ⟨init, last, rfl⟩ := (List.eq_nil_or_concat ps).resolve_left h
  rw [List.concat_eq_append, afterTicks_concat, pushSample_stable, pushSample_ring]

theorem all_const_of_ne_nil {ps : List KeyVec} (h : ps ≠ []) (b : Bool) : (ps.all fun _ => b) = b := by
  cases b with
  | true => simp
  | false => simpa using List.exists_mem_of_ne_nil ps h

/-- Settles O32: after N TICKs the window holds their samples alone. -/
theorem stableIsUnanimityOverTheWindow : Obligations.StableIsUnanimityOverTheWindow := by
  intro s ps hlen hidx hps
  have nonempty : ps ≠ [] := List.ne_nil_of_length_pos (by omega)
  have start : Window s (s.ring.rotate s.ridx) := ⟨hlen, hidx, rfl⟩
  have window := start.afterTicks ps
  rw [List.drop_left' (by rw [List.length_rotate, hlen, hps])] at window
  have unanimous (k : Nat) : (afterTicks ps s).stable.testBit k = ps.all fun p => (s.rawSample p).testBit k := by
    rw [afterTicks_stable nonempty, window.andAll_testBit, List.all_map]
    rfl
  refine ⟨afterTicks ps s, execAll_eq_afterTicks ps s, ?_, fun k hk => ?_, fun j => ?_⟩
  · rw [afterTicks_ridx hidx, hps, Nat.add_mod_right, Nat.mod_eq_of_lt hidx]
  · simp only [unanimous, rawSample_testBit, if_pos hk]
  · have analog : ¬ s.cfg.numBtn + j < s.cfg.numBtn := by omega
    simp only [unanimous, rawSample_testBit, if_neg analog, Nat.add_sub_cancel_left]
    exact all_const_of_ne_nil nonempty _

/-- Settles O33: the AND of a ring with an inactive entry. -/
theorem releaseIsNotDebounced : Obligations.ReleaseIsNotDebounced := by
  intro s pins k inv hk inactive
  have inside : s.ridx < s.ring.length := inv.ring_length ▸ inv.ridx_lt
  have kw : k < (pushSample (s.rawSample pins) s).cfg.kw := by
    rw [pushSample_cfg, Config.kw]
    omega
  have low : (pushSample (s.rawSample pins) s).stable.testBit k = false := by
    rw [pushSample_stable, andAll_testBit (List.ne_nil_of_length_pos (by rw [List.length_set]; omega)),
      List.all_eq_false]
    refine ⟨_, List.mem_set inside _, ?_⟩
    rw [rawSample_testBit, if_pos hk, inactive]
    decide
  have changed : (pushSample (s.rawSample pins) s).changed.testBit k = s.stable.testBit k := by
    rw [pushSample_changed, Nat.testBit_xor, ← pushSample_stable, low, Bool.xor_false]
  refine ⟨_, exec_tick pins s, low, ?_, ?_⟩
  · rw [State.released_testBit _ kw, low, changed, Bool.not_false, Bool.and_true]
  · rw [State.pressed_testBit, low, Bool.and_false]

/-- A button held over `n` TICKs from a quiet ring: `n` active samples have pushed as many quiet ones out. -/
theorem heldButton_stable {s : State} {pins k : Nat} (hring : s.ring = List.replicate s.cfg.depth 0)
    (hidx : s.ridx < s.cfg.depth) (hstable : s.stable = 0) (hk : k < s.cfg.numBtn)
    (held : pins.testBit k = false) (n : Nat) :
    (afterTicks (List.replicate n pins) s).stable.testBit k = decide (s.cfg.depth ≤ n) := by
  have pos : 0 < s.cfg.depth := Nat.zero_lt_of_lt hidx
  have active : (s.rawSample pins).testBit k = true := by
    rw [rawSample_testBit, if_pos hk, held, Bool.not_false]
  cases n with
  | zero =>
    have early : ¬ s.cfg.depth ≤ 0 := Nat.not_le.mpr pos
    rw [decide_eq_false early]
    exact (congrArg (·.testBit k) hstable).trans (Nat.zero_testBit k)
  | succ n =>
    have start : Window s (List.replicate s.cfg.depth 0) :=
      ⟨by rw [hring, List.length_replicate], hidx, by rw [hring, List.rotate_replicate]⟩
    have window := start.afterTicks (List.replicate (n + 1) pins)
    rw [afterTicks_stable (by simp), window.andAll_testBit]
    simp only [List.map_replicate, List.length_replicate, List.drop_append, List.drop_replicate,
      List.all_append, List.all_replicate, active, Nat.zero_testBit]
    by_cases full : s.cfg.depth ≤ n + 1
    · simp [full]
    · simp [full, Nat.sub_eq_zero_iff_le]

/-- Settles O34: the press edge shows at the one TICK where `stable` changes. -/
theorem heldButtonFiresOnePressEdge : Obligations.HeldButtonFiresOnePressEdge := by
  intro s pins k n hdepth hring hidx hstable hk held hn
  have stable_at := heldButton_stable hring hidx hstable hk held
  refine ⟨afterTicks (List.replicate n pins) s, ?_, stable_at n, ?_⟩
  · rw [← execAll_eq_afterTicks, List.map_replicate]
  · obtain ⟨m, rfl⟩ := Nat.exists_eq_add_one.mpr hn
    have last : afterTicks (List.replicate (m + 1) pins) s =
        pushSample (s.rawSample pins) (afterTicks (List.replicate m pins) s) := by
      rw [List.replicate_succ', afterTicks_concat]
    rw [State.pressed_testBit, stable_at (m + 1), last, pushSample_changed, ← pushSample_stable, ← last,
      Nat.testBit_xor, stable_at m, stable_at (m + 1)]
    by_cases before : s.cfg.depth ≤ m
    · have after : s.cfg.depth ≤ m + 1 := by omega
      have later : m + 1 ≠ s.cfg.depth := by omega
      simp [before, after, later]
    · have edge : s.cfg.depth ≤ m + 1 ↔ m + 1 = s.cfg.depth := by omega
      simp [before, edge]

end Sys2Proof.Machine
end

section
/-! The invariant of the three groups (spec/10_state.md R25, R32 to R41, 30_encoding.md R110, 42_adcmux.md R207,
R208): each effect keeps each group, so every step keeps the invariant. -/

namespace Sys2Proof.Machine

/-! ### What each group reads -/

theorem DisplayInv.congr {s t : State} (h : DisplayInv s) (cfg_eq : t.cfg = s.cfg)
    (initLeft_eq : t.initLeft = s.initLeft) (bus_eq : t.bus = s.bus) (hung_eq : t.hung = s.hung) : DisplayInv t := by
  obtain ⟨h1, h2, h3, h4⟩ := h
  constructor <;> simpa only [cfg_eq, initLeft_eq, bus_eq, hung_eq]

theorem DebounceInv.congr {s t : State} (h : DebounceInv s) (cfg_eq : t.cfg = s.cfg) (ring_eq : t.ring = s.ring)
    (ridx_eq : t.ridx = s.ridx) (stable_eq : t.stable = s.stable) (changed_eq : t.changed = s.changed) :
    DebounceInv t := by
  obtain ⟨h1, h2, h3, h4, h5⟩ := h
  constructor <;> simpa only [cfg_eq, ring_eq, ridx_eq, stable_eq, changed_eq]

theorem MuxInv.congr {s t : State} (h : MuxInv s) (chan_eq : t.chan = s.chan) (nchan_eq : t.nchan = s.nchan)
    (running_eq : t.running = s.running) (cur_eq : t.cur = s.cur) (acc_eq : t.acc = s.acc) (cnt_eq : t.cnt = s.cnt) :
    MuxInv t := by
  have chanAt_eq (k : Nat) : t.chanAt k = s.chanAt k := by rw [State.chanAt, chan_eq, State.chanAt]
  obtain ⟨h1, h2, h3, h4, h5, h6, h7, h8, h9⟩ := h
  constructor <;> simpa only [chan_eq, nchan_eq, running_eq, cur_eq, acc_eq, cnt_eq, chanAt_eq]

/-! ### After RESET (70_reset_and_hazards.md R300) -/

theorem chanAt_initial (c : Config) (k : Nat) : (State.initial c).chanAt k = Channel.zero := by
  rw [State.chanAt, State.initial, List.getD_eq_getElem?_getD, List.getElem?_replicate]
  split <;> rfl

theorem displayInv_initial (c : Config) : DisplayInv (State.initial c) where
  initLeft_le := le_rfl
  trace_whole _ := ⟨[], rfl⟩
  trace_cut hung := by cases hung
  hung_only hung := by cases hung

theorem debounceInv_initial {c : Config} (depth_pos : 1 ≤ c.depth) : DebounceInv (State.initial c) where
  ring_length := List.length_replicate
  ridx_lt := depth_pos
  ring_width v hv := by
    rw [List.eq_of_mem_replicate hv]
    exact Nat.two_pow_pos _
  stable_eq := by
    refine Nat.eq_of_testBit_eq fun k => ?_
    rw [andAll_testBit (List.ne_nil_of_length_pos (by rwa [State.initial, List.length_replicate]))]
    have no_sample : c.depth ≠ 0 := Nat.ne_of_gt depth_pos
    simp [State.initial, no_sample]
  changed_width := Nat.two_pow_pos _

theorem muxInv_initial (c : Config) : MuxInv (State.initial c) where
  chan_length := List.length_replicate
  nchan_le := Nat.zero_le 10
  running_iff := rfl
  cur_lt running := by cases running
  cnt_lt running := by cases running
  acc_le running := by cases running
  idle_zero _ := ⟨rfl, rfl, rfl⟩
  registered _ h := absurd h (Nat.not_lt_zero _)
  unused i _ := chanAt_initial c i

theorem inv_initial {c : Config} (hc : c.wf = true) : Inv (State.initial c) := by
  obtain ⟨_, _, depth_pos⟩ := bounds_of_wf hc
  exact ⟨hc, displayInv_initial c, debounceInv_initial depth_pos, muxInv_initial c⟩

/-- Settles O52: the fixture T0 is well-formed. -/
theorem resetStateMeetsTheInvariant : Obligations.ResetStateMeetsTheInvariant := inv_initial (by decide)

/-- Settles O50: `State.reset` is written out. -/
theorem resetStateHoldsTheResetValues : Obligations.ResetStateHoldsTheResetValues := by
  unfold Obligations.ResetStateHoldsTheResetValues
  decide

/-! ### The display group (10_state.md R25, 30_encoding.md R110, 60_exceptions.md R266) -/

/-- A trace cut inside its q-th transaction: the whole ones before it and a part of that one. -/
theorem traceOf_take (c : Config) {Fs : List FrameWord} {q : Nat} (hq : q < Fs.length) {k : Nat}
    (hk : k ≤ eventsPerFrame) : (traceOf c Fs).take (eventsPerFrame * q + k) =
      traceOf c (Fs.take q) ++ (frameEvents c Fs[q]).take k := by
  have split : Fs = Fs.take q ++ Fs[q] :: Fs.drop (q + 1) := by
    rw [← List.drop_eq_getElem_cons hq, List.take_append_drop]
  have whole : eventsPerFrame * q = (traceOf c (Fs.take q)).length := by
    rw [traceOf_length, List.length_take_of_le hq.le]
  conv_lhs => rw [split]
  rw [traceOf_append, traceOf_cons, whole, List.take_length_add_append,
    List.take_append_of_le_length (by rwa [frameEvents_length])]

/-- Every event that is driven is one of the eleven of some frame. -/
theorem exists_cut {d n : Nat} (pos : 0 < d) (le : d ≤ eventsPerFrame * n) :
    ∃ q k, q < n ∧ 1 ≤ k ∧ k ≤ eventsPerFrame ∧ d = eventsPerFrame * q + k := by
  rw [eventsPerFrame] at *
  exact ⟨(d - 1) / 11, (d - 1) % 11 + 1, by omega, by omega, by omega, by omega⟩

theorem initLeftAfter_le {s : State} (h : s.initLeft.toNat ≤ 4) (n : Nat) : (initLeftAfter n s).toNat ≤ 4 := by
  rw [initLeftAfter, BitVec.toNat_ofNat]
  omega

/-- Frames from a trace of whole transactions: they are all sent, or the trace ends in the one that stopped. -/
theorem DisplayInv.emitFrames {s : State} (inv : DisplayInv s) (h : s.hung = false) (n : Nat) :
    DisplayInv (emitFrames n s) := by
  obtain ⟨Fs, whole⟩ := inv.trace_whole h
  rcases Bool.eq_false_or_eq_true s.cfg.busMayHang with hm | hm
  · rw [emitFrames_mayHang n h hm]
    have initLeft_le : (sentFramesMayHang n s).initLeft.toNat ≤ 4 := initLeftAfter_le inv.initLeft_le _
    refine ⟨initLeft_le, fun goes => ?_, fun stops => ?_, fun _ => hm⟩
    · rw [sentFramesMayHang_hung] at goes
      refine ⟨Fs ++ framesOf n s, ?_⟩
      rw [sentFramesMayHang_bus, drivenOf_of_goes goes, List.take_of_length_le (by simp), whole,
        sentFramesMayHang_cfg, traceOf_append]
    · rw [sentFramesMayHang_hung] at stops
      have nonempty : 0 < eventsPerFrame * n := by
        refine Nat.pos_of_ne_zero fun none => ?_
        rw [none, stopsWithin, List.take_zero] at stops
        cases stops
      obtain ⟨q, k, hq, hk, hk', cut⟩ := exists_cut (drivenOf_pos s.busDraws _ nonempty) (drivenOf_le s.busDraws _)
      have inside : q < (framesOf n s).length := by rwa [framesOf_length]
      refine ⟨Fs ++ (framesOf n s).take q, (framesOf n s)[q], k, hk, hk', ?_⟩
      rw [sentFramesMayHang_bus, cut, traceOf_take _ inside hk', whole, sentFramesMayHang_cfg, traceOf_append,
        List.append_assoc]
  · rw [emitFrames_of_noHang n h hm]
    have unhung : ¬ (sentFrames n s).hung = true := by simp [h]
    refine ⟨initLeftAfter_le inv.initLeft_le n, fun _ => ⟨Fs ++ framesOf n s, ?_⟩, fun hung => absurd hung unhung,
      fun hung => absurd hung unhung⟩
    rw [sentFrames_bus, whole, sentFrames_cfg, traceOf_append]

/-- DISP_INIT alone writes init_left before its frames, and writes 4 (40_display.md R135). -/
theorem DisplayInv.flushOf {i : Instr} {s u : State} {n : Nat} {st : Status} (inv : DisplayInv s)
    (hf : flushOf i s = some (n, u, st)) : DisplayInv u := by
  by_cases hi : i = .dispInit
  · subst hi
    cases hf
    exact ⟨le_rfl, inv.trace_whole, inv.trace_cut, inv.hung_only⟩
  · obtain ⟨_, m, rfl⟩ := flushOf_eq_flush hf hi
    exact inv.congr rfl rfl rfl rfl

theorem Effect.displayInv {i : Instr} {s t : State} (e : Effect i s t) (inv : DisplayInv s) : DisplayInv t := by
  cases e with
  | @flushes _ _ u n st h hf =>
    have unhung : u.hung = false := by
      obtain ⟨m, il, rfl, _⟩ := flushOf_writes hf
      exact h
    exact ((inv.flushOf hf).emitFrames unhung n).congr (by simp) (by simp) (by simp) (by simp)
  | resets => exact (displayInv_initial s.cfg).congr rfl rfl rfl rfl
  | ignored | idles => exact inv
  | _ => exact inv.congr (by simp) (by simp) (by simp) (by simp)

/-! ### The debounce group (10_state.md R32 to R35, 41_debounce.md R171) -/

/-- The conditioned sample has KW bits. -/
theorem rawSample_lt {s : State} (hc : s.cfg.wf = true) (pins : KeyVec) : s.rawSample pins < 2 ^ s.cfg.kw := by
  refine Nat.lt_pow_two_of_testBit _ fun k hk => ?_
  rw [Config.kw] at hk
  have mask : s.analogBits < 2 ^ (k - s.cfg.numBtn) :=
    (classify_lt hc _).trans_le (Nat.pow_le_pow_right (by decide) (by omega))
  rw [rawSample_testBit, if_neg (by omega), Nat.testBit_lt_two_pow mask]

theorem DebounceInv.pushSample {s : State} (inv : DebounceInv s) {raw : KeyVec} (hraw : raw < 2 ^ s.cfg.kw) :
    DebounceInv (pushSample raw s) := by
  have width : ∀ v ∈ s.ring.set s.ridx raw, v < 2 ^ s.cfg.kw := by
    intro v hv
    rcases List.mem_or_eq_of_mem_set hv with old | rfl
    · exact inv.ring_width v old
    · exact hraw
  refine ⟨?_, ?_, width, rfl, ?_⟩
  · rw [pushSample_ring, List.length_set, pushSample_cfg, inv.ring_length]
  · exact Nat.mod_lt _ (Nat.zero_lt_of_lt inv.ridx_lt)
  · rw [pushSample_changed, pushSample_cfg, inv.stable_eq]
    exact Nat.xor_lt_two_pow (andAll_lt inv.ring_width) (andAll_lt width)

theorem Effect.debounceInv {i : Instr} {s t : State} (e : Effect i s t) (hc : s.cfg.wf = true)
    (inv : DebounceInv s) : DebounceInv t := by
  obtain ⟨_, _, depth_pos⟩ := bounds_of_wf hc
  rcases e.debounce_row with ⟨ring_eq, ridx_eq, stable_eq, changed_eq⟩ | ⟨pins, rfl⟩ | rfl
  · exact inv.congr e.cfg_eq ring_eq ridx_eq stable_eq changed_eq
  · cases e with
    | ignored command | answers command => cases command
    | flushes h hf => cases hf
    | samples => exact inv.pushSample (rawSample_lt hc pins)
  · cases e with
    | ignored command | answers command => cases command
    | flushes h hf => cases hf
    | resets => exact (debounceInv_initial depth_pos).congr rfl rfl rfl rfl rfl

/-! ### The analog group (42_adcmux.md R201, R203, R206 to R208) -/

/-- A record of a registered channel may take a new result and ready flag. -/
theorem MuxInv.setChan {s : State} (inv : MuxInv s) {k : Nat} (hk : k < s.nchan) {ch : Channel}
    (ns_eq : ch.ns = (s.chanAt k).ns) (res_eq : ch.res = (s.chanAt k).res)
    (result_le : ch.result.toNat ≤ maxSample ch.res) : MuxInv (s.setChan k ch) := by
  have inside : k < s.chan.length := by
    rw [inv.chan_length]
    exact hk.trans_le inv.nchan_le
  have chanAt_eq := chanAt_setChan ch inside
  have ns_kept (j : Nat) : ((s.setChan k ch).chanAt j).ns = (s.chanAt j).ns := by
    rw [chanAt_eq]
    split <;> simp_all
  have res_kept (j : Nat) : ((s.setChan k ch).chanAt j).res = (s.chanAt j).res := by
    rw [chanAt_eq]
    split <;> simp_all
  refine ⟨?_, inv.nchan_le, inv.running_iff, inv.cur_lt, ?_, ?_, inv.idle_zero, fun j hj => ⟨?_, ?_⟩,
    fun j hj => ?_⟩
  · rw [setChan_chan, List.length_set, inv.chan_length]
  · simpa [ns_kept] using inv.cnt_lt
  · simpa [res_kept] using inv.acc_le
  · rw [ns_kept]
    exact (inv.registered j hj).1
  · rw [chanAt_eq]
    split
    · exact result_le
    · exact (inv.registered j hj).2
  · have other : j ≠ k := (hk.trans_le hj).ne'
    rw [chanAt_eq, if_neg other]
    exact inv.unused j hj

/-- A group may begin at any registered channel (R205). -/
theorem MuxInv.beginGroup {s : State} (inv : MuxInv s) (running : s.running = true) {k : Nat} (hk : k < s.nchan) :
    MuxInv { s with cur := k, acc := 0, cnt := 0 } where
  chan_length := inv.chan_length
  nchan_le := inv.nchan_le
  running_iff := inv.running_iff
  cur_lt _ := hk
  cnt_lt _ := Nat.pos_of_ne_zero fun zero => (inv.registered k hk).1 (BitVec.eq_of_toNat_eq zero)
  acc_le _ := Nat.zero_le _
  idle_zero idle := absurd running (Bool.eq_false_iff.mp idle)
  registered := inv.registered
  unused := inv.unused

/-- A reading that does not fill the group. -/
theorem MuxInv.accumulate {s : State} (inv : MuxInv s) (running : s.running = true) (r : Reading)
    (more : s.cnt.toNat + 1 < (s.chanAt s.cur).ns.toNat) : MuxInv { s with
      acc := BitVec.ofNat 18 (s.acc.toNat + sampleNat (s.chanAt s.cur).res r)
      cnt := BitVec.ofNat 8 (s.cnt.toNat + 1) } := by
  obtain ⟨sum_le, sum_lt, _⟩ := acc_add_sample_le inv running r
  have cnt_toNat : (BitVec.ofNat 8 (s.cnt.toNat + 1)).toNat = s.cnt.toNat + 1 :=
    Nat.mod_eq_of_lt (more.trans (s.chanAt s.cur).ns.isLt)
  have acc_toNat : (BitVec.ofNat 18 (s.acc.toNat + sampleNat (s.chanAt s.cur).res r)).toNat =
      s.acc.toNat + sampleNat (s.chanAt s.cur).res r := Nat.mod_eq_of_lt sum_lt
  exact ⟨inv.chan_length, inv.nchan_le, inv.running_iff, inv.cur_lt, fun _ => cnt_toNat.trans_lt more,
    fun _ => by rw [acc_toNat, cnt_toNat]; exact sum_le,
    fun idle => absurd running (Bool.eq_false_iff.mp idle), inv.registered, inv.unused⟩

/-- A reading that fills the group: the mean of samples is no larger than a sample (R207). -/
theorem MuxInv.publish {s : State} (inv : MuxInv s) (running : s.running = true) (r : Reading)
    (full : s.cnt.toNat + 1 = (s.chanAt s.cur).ns.toNat) : MuxInv { s with
      chan := s.chan.set s.cur { s.chanAt s.cur with
        result := BitVec.ofNat 10 ((s.acc.toNat + sampleNat (s.chanAt s.cur).res r) / (s.chanAt s.cur).ns.toNat)
        ready := true }
      cur := (s.cur + 1) % s.nchan
      acc := 0
      cnt := 0 } := by
  obtain ⟨sum_le, _, _⟩ := acc_add_sample_le inv running r
  have cur_lt := inv.cur_lt running
  rw [full] at sum_le
  have mean_le := (Nat.mod_le _ (2 ^ 10)).trans (Nat.div_le_of_le_mul sum_le)
  exact (inv.setChan cur_lt (ch := { s.chanAt s.cur with result := BitVec.ofNat 10 _, ready := true }) rfl rfl
    mean_le).beginGroup running (Nat.mod_lt _ (Nat.zero_lt_of_lt cur_lt))

theorem MuxInv.takeReading {s : State} (inv : MuxInv s) (running : s.running = true) (r : Reading) :
    MuxInv (takeReading r s) := by
  obtain ⟨_, _, cnt_le⟩ := acc_add_sample_le inv running r
  obtain ⟨accumulates, publishes⟩ := takeReading_spec inv running r
  rcases Nat.lt_or_eq_of_le cnt_le with more | full
  · rw [accumulates more]
    exact inv.accumulate running r more
  · rw [publishes full]
    exact inv.publish running r full

/-- A sampler that does not run stands at channel 0 with no sample, where the first registration starts it. -/
theorem MuxInv.startSampler_eq {s : State} (inv : MuxInv s) (sel : Byte) (ref : BitVec 2) (res : Bool) (ns : Byte) :
    startSampler (addChannel sel ref res ns s) = { addChannel sel ref res ns s with running := true } := by
  rw [Machine.startSampler_eq]
  rcases Bool.eq_false_or_eq_true s.running with running | idle
  · simp [running]
  · obtain ⟨cur_eq, acc_eq, cnt_eq⟩ := inv.idle_zero idle
    simp [idle, cur_eq, acc_eq, cnt_eq]

/-- A new record follows the registered ones. -/
theorem MuxInv.register {s : State} (inv : MuxInv s) (room : s.nchan < 10) {ns : Byte} (hns : ns ≠ 0) (sel : Byte)
    (ref : BitVec 2) (res : Bool) : MuxInv (startSampler (addChannel sel ref res ns s)) := by
  have inside : s.nchan < s.chan.length := by rwa [inv.chan_length]
  have chanAt_eq (j : Nat) : ({ addChannel sel ref res ns s with running := true } : State).chanAt j =
      if j = s.nchan then ⟨sel, ref, res, ns, 0, false⟩ else s.chanAt j := chanAt_setChan _ inside j
  have group : s.cur < s.nchan + 1 ∧ ∃ ch : Channel, (if s.cur = s.nchan then ⟨sel, ref, res, ns, 0, false⟩
      else s.chanAt s.cur) = ch ∧ s.cnt.toNat < ch.ns.toNat ∧ s.acc.toNat ≤ s.cnt.toNat * maxSample ch.res := by
    rcases Bool.eq_false_or_eq_true s.running with running | idle
    · have cur_lt := inv.cur_lt running
      exact ⟨by omega, _, if_neg cur_lt.ne, inv.cnt_lt running, inv.acc_le running⟩
    · obtain ⟨cur_eq, acc_eq, cnt_eq⟩ := inv.idle_zero idle
      have unregistered := inv.running_iff
      rw [idle, eq_comm, decide_eq_false_iff_not] at unregistered
      refine ⟨by omega, _, if_pos (by omega), ?_, ?_⟩
      · rw [cnt_eq]
        exact Nat.pos_of_ne_zero fun zero => hns (BitVec.eq_of_toNat_eq zero)
      · rw [acc_eq]
        exact Nat.zero_le _
  obtain ⟨cur_le, ch, at_cur, cnt_lt, acc_le⟩ := group
  have at_cur := (chanAt_eq s.cur).trans at_cur
  rw [inv.startSampler_eq]
  refine ⟨List.length_set.trans inv.chan_length, room, by simp, fun _ => cur_le, fun _ => ?_, fun _ => ?_,
    (fun idle => by cases idle), fun j (hj : j < s.nchan + 1) => ?_, fun j (hj : s.nchan + 1 ≤ j) => ?_⟩
  · exact at_cur ▸ cnt_lt
  · exact at_cur ▸ acc_le
  · rw [chanAt_eq]
    split
    · exact ⟨hns, Nat.zero_le _⟩
    · exact inv.registered j (by omega)
  · rw [chanAt_eq, if_neg (by omega)]
    exact inv.unused j (by omega)

theorem Effect.muxInv {i : Instr} {s t : State} (e : Effect i s t) (inv : MuxInv s) : MuxInv t := by
  cases e with
  | flushes h hf =>
    obtain ⟨m, il, rfl, _⟩ := flushOf_writes hf
    exact inv.congr (by simp) (by simp) (by simp) (by simp) (by simp) (by simp)
  | registers h room hns => exact (inv.register room hns _ _ _).congr rfl rfl rfl rfl rfl rfl
  | @reads id _ h registered =>
    exact (inv.setChan registered (ch := { s.chanAt id.toNat with ready := false }) rfl rfl
      (inv.registered _ registered).2).congr rfl rfl rfl rfl rfl rfl
  | converts running => exact inv.takeReading running _
  | resets => exact (muxInv_initial s.cfg).congr rfl rfl rfl rfl rfl rfl
  | _ => exact inv.congr rfl rfl rfl rfl rfl rfl

/-! ### The invariant -/

theorem Effect.inv {i : Instr} {s t : State} (e : Effect i s t) (inv : Inv s) : Inv t := by
  obtain ⟨cfg_wf, display, debounce, mux⟩ := inv
  exact ⟨by rwa [e.cfg_eq], e.displayInv display, e.debounceInv cfg_wf debounce, e.muxInv mux⟩

/-- Settles O51: a fetch leaves the groups alone, and every effect keeps them. -/
theorem everyStepKeepsTheInvariant : Obligations.EveryStepKeepsTheInvariant := by
  intro s t inv stepped
  cases found : fetch s with
  | none =>
    rw [step_of_fetch_none inv.cfg_wf found] at stepped
    cases stepped
    exact inv
  | some f =>
    obtain ⟨i, u⟩ := f
    rw [step_of_fetch inv.cfg_wf found] at stepped
    obtain ⟨rx, inputs, rfl⟩ := fetch_writes found
    obtain ⟨cfg_wf, display, debounce, mux⟩ := inv
    exact (effect_of_exec stepped).inv ⟨cfg_wf, display.congr rfl rfl rfl rfl, debounce.congr rfl rfl rfl rfl rfl,
      mux.congr rfl rfl rfl rfl rfl rfl⟩

end Sys2Proof.Machine
end

section
/-! Runs of the sampler (spec/42_adcmux.md R203, R205, R206): a group, a full round, and two reads of one channel. -/

namespace Sys2Proof.Machine

/-! ### Runs -/

theorem execAll_cons {i : Instr} {s t : State} (h : exec i s = .next t) (is : List Instr) :
    execAll (i :: is) s = execAll is t := by
  rw [execAll, h]

/-- A predicate that every instruction of a run keeps, where it stands in the run, holds at its end. -/
theorem execAll_keeps {P : State → Prop} {is : List Instr} {s t : State} (run : execAll is s = .next t) (start : P s)
    (keeps : ∀ pre i post u v, is = pre ++ i :: post → execAll pre s = .next u → exec i u = .next v → P u → P v) :
    P t := by
  induction is generalizing s with
  | nil =>
    cases run
    exact start
  | cons i is ih =>
    obtain ⟨v, executed, _⟩ := exists_effect i s
    rw [execAll_cons executed] at run
    refine ih run (keeps [] i is s v rfl rfl executed start) fun pre j post u w split before => ?_
    exact keeps (i :: pre) j post u w (by rw [split]; rfl) ((execAll_cons executed pre).trans before)

/-! ### A group (R203, R205) -/

/-- The rest of a group publishes the mean of what it had and what it gets. -/
theorem execAll_restOfGroup {s : State} (inv : MuxInv s) (running : s.running = true) {rs : List Reading}
    (rest : s.cnt.toNat + rs.length = (s.chanAt s.cur).ns.toNat) :
    execAll (rs.map Instr.adcDone) s = .next { s with
      chan := s.chan.set s.cur { s.chanAt s.cur with
        result := BitVec.ofNat 10 ((s.acc.toNat + (rs.map (sampleNat (s.chanAt s.cur).res)).sum) /
          (s.chanAt s.cur).ns.toNat)
        ready := true }
      cur := (s.cur + 1) % s.nchan
      acc := 0
      cnt := 0 } := by
  induction rs generalizing s with
  | nil =>
    have := inv.cnt_lt running
    simp only [List.length_nil] at rest
    omega
  | cons r rs ih =>
    obtain ⟨_, sum_lt, _⟩ := acc_add_sample_le inv running r
    obtain ⟨accumulates, publishes⟩ := takeReading_spec inv running r
    rw [List.map_cons, execAll_cons (exec_adcDone_of_running r running)]
    rw [List.length_cons] at rest
    by_cases last : rs = []
    · subst last
      rw [publishes (by simpa using rest)]
      simp [execAll]
    · have more : s.cnt.toNat + 1 < (s.chanAt s.cur).ns.toNat := by
        have := List.length_pos_iff.mpr last
        omega
      have cnt_toNat : (BitVec.ofNat 8 (s.cnt.toNat + 1)).toNat = s.cnt.toNat + 1 :=
        Nat.mod_eq_of_lt (more.trans (s.chanAt s.cur).ns.isLt)
      have acc_toNat : (BitVec.ofNat 18 (s.acc.toNat + sampleNat (s.chanAt s.cur).res r)).toNat =
          s.acc.toNat + sampleNat (s.chanAt s.cur).res r := Nat.mod_eq_of_lt sum_lt
      have later := ih (inv.accumulate running r more) running (by
        change (BitVec.ofNat 8 (s.cnt.toNat + 1)).toNat + rs.length = (s.chanAt s.cur).ns.toNat
        omega)
      rw [accumulates more, later]
      simp only [acc_toNat, List.map_cons, List.sum_cons, Nat.add_assoc]
      rfl

/-- The record of a channel after a whole group: the floor of the mean, and ready. -/
def Channel.published (ch : Channel) (rs : List Reading) : Channel :=
  { ch with result := BitVec.ofNat 10 ((rs.map (sampleNat ch.res)).sum / ch.ns.toNat), ready := true }

/-- The state after a whole group for the channel at the cursor. -/
def afterGroup (rs : List Reading) (s : State) : State :=
  { s.setChan s.cur ((s.chanAt s.cur).published rs) with cur := (s.cur + 1) % s.nchan, acc := 0, cnt := 0 }

theorem execAll_group {s : State} (inv : MuxInv s) (running : s.running = true) (hcnt : s.cnt = 0)
    {rs : List Reading} (whole : rs.length = (s.chanAt s.cur).ns.toNat) :
    execAll (rs.map Instr.adcDone) s = .next (afterGroup rs s) := by
  have acc_zero : s.acc.toNat = 0 := by
    have := inv.acc_le running
    rw [hcnt] at this
    simpa using this
  have published := execAll_restOfGroup inv running (rs := rs) (by rw [hcnt, whole]; exact Nat.zero_add _)
  rwa [acc_zero, Nat.zero_add] at published

/-- Settles O44: a whole group from its begin. -/
theorem groupPublishesTheMean : Obligations.GroupPublishesTheMean := by
  rintro s rs _ inv running hcnt rfl whole
  exact execAll_group inv running hcnt whole

/-! ### A round (R205) -/

theorem execAll_adcDone_inv {rs : List Reading} {s t : State} (run : execAll (rs.map Instr.adcDone) s = .next t)
    (inv : MuxInv s) : MuxInv t :=
  execAll_keeps (P := MuxInv) run inv fun _ _ _ _ _ _ _ executed => (effect_of_exec executed).muxInv

theorem chanAt_afterGroup {s : State} (inv : MuxInv s) (running : s.running = true) (rs : List Reading) (k : Nat) :
    (afterGroup rs s).chanAt k = if k = s.cur then (s.chanAt s.cur).published rs else s.chanAt k := by
  have inside : s.cur < s.chan.length := by
    rw [inv.chan_length]
    exact (inv.cur_lt running).trans_le inv.nchan_le
  exact chanAt_setChan _ inside k

/-- Whole groups for the channels from the cursor on, up to the last one at most. -/
theorem execAll_groups {s : State} (inv : MuxInv s) (running : s.running = true) (hcnt : s.cnt = 0)
    {gs : List (List Reading)} (room : s.cur + gs.length ≤ s.nchan)
    (whole : ∀ i g, gs[i]? = some g → g.length = (s.chanAt (s.cur + i)).ns.toNat) :
    ∃ t, execAll (gs.flatten.map Instr.adcDone) s = .next t ∧ MuxInv t ∧ t.running = true ∧
      t.cur = (s.cur + gs.length) % s.nchan ∧ t.cnt = 0 ∧ t.nchan = s.nchan ∧
      (∀ k, k < s.cur ∨ s.cur + gs.length ≤ k → t.chanAt k = s.chanAt k) ∧
      ∀ i g, gs[i]? = some g → t.chanAt (s.cur + i) = (s.chanAt (s.cur + i)).published g := by
  induction gs generalizing s with
  | nil =>
    exact ⟨s, rfl, inv, running, (Nat.mod_eq_of_lt (inv.cur_lt running)).symm, hcnt, rfl, fun _ _ => rfl, by simp⟩
  | cons g gs ih =>
    have group := execAll_group inv running hcnt (whole 0 g rfl)
    have inv' := execAll_adcDone_inv group inv
    have chanAt_eq := chanAt_afterGroup inv running g
    rw [List.length_cons] at room
    have inside : (afterGroup g s).cur < s.nchan := Nat.mod_lt _ (by omega)
    have next : gs.length = 0 ∨ (afterGroup g s).cur = s.cur + 1 := by
      rcases Nat.eq_zero_or_pos gs.length with none | some
      · exact .inl none
      · exact .inr (Nat.mod_eq_of_lt (by omega))
    have later (i : Nat) (h : List Reading) (hi : gs[i]? = some h) :
        (afterGroup g s).cur + i = s.cur + (i + 1) ∧
          (afterGroup g s).chanAt ((afterGroup g s).cur + i) = s.chanAt (s.cur + (i + 1)) := by
      obtain ⟨hlt, _⟩ := List.getElem?_eq_some_iff.mp hi
      have place : (afterGroup g s).cur + i = s.cur + (i + 1) := by omega
      exact ⟨place, by rw [place, chanAt_eq, if_neg (by omega)]⟩
    have room' : (afterGroup g s).cur + gs.length ≤ s.nchan := by omega
    obtain ⟨t, run, inv'', running'', cur_eq, cnt_eq, nchan_eq, kept, published⟩ :=
      ih inv' running rfl room' fun i h hi => by
        rw [(later i h hi).2]
        exact whole (i + 1) h hi
    refine ⟨t, ?_, inv'', running'', ?_, cnt_eq, nchan_eq, fun k hk => ?_, fun i h hi => ?_⟩
    · rw [List.flatten_cons, List.map_append, execAll_append group, run]
    · rw [cur_eq, List.length_cons, Nat.add_comm gs.length 1, ← Nat.add_assoc]
      exact Nat.mod_add_mod ..
    · rw [List.length_cons] at hk
      rw [kept k (by omega), chanAt_eq, if_neg (by omega)]
    · cases i with
      | zero =>
        obtain rfl : g = h := by simpa using hi
        rw [Nat.add_zero, kept s.cur (by omega), chanAt_eq, if_pos rfl]
      | succ i =>
        obtain ⟨place, record⟩ := later i h hi
        rw [← place, published i h hi, record, place]

/-- Settles O45: the groups of one round, from channel 0 to channel 0. -/
theorem fullRoundPublishesEveryMean : Obligations.FullRoundPublishesEveryMean := by
  intro s gs inv running hcur hcnt hlen whole
  have whole' (i : Nat) (g : List Reading) (hg : gs[i]? = some g) :
      g.length = (s.chanAt (s.cur + i)).ns.toNat := by
    rw [hcur, Nat.zero_add]
    exact whole i g hg
  obtain ⟨t, run, inv', running', cur_eq, cnt_eq, nchan_eq, _, published⟩ :=
    execAll_groups inv running hcnt (by omega) whole'
  refine ⟨t, run, ?_, cnt_eq, ?_, nchan_eq, fun i g hg => ?_⟩
  · rw [cur_eq, hcur, hlen, Nat.zero_add, Nat.mod_self]
  · have empty := inv'.acc_le running'
    rw [cnt_eq] at empty
    exact BitVec.eq_of_toNat_eq (by simpa using empty)
  · have record := published i g hg
    rwa [hcur, Nat.zero_add] at record

/-! ### Two reads of one channel (20_memory.md R73, 42_adcmux.md R206) -/

/-- Only RESET ends a hang (60_exceptions.md R266). -/
theorem Effect.hung_of_hung {i : Instr} {s t : State} (e : Effect i s t) (h : s.hung = true) (hi : i ≠ .reset) :
    t.hung = true := by
  cases e with
  | ignored => exact h
  | samples | idles | converts => simpa using h
  | resets => exact absurd rfl hi
  | answers _ unhung | flushes unhung | setsTemplate unhung | registers unhung | reads unhung =>
    rw [h] at unhung
    cases unhung

/-- Channel `k` is registered and its result has been read. -/
def HasBeenRead (k : Nat) (s : State) : Prop := k < s.nchan ∧ (s.chanAt k).ready = false

/-- A result that has been read stays read until the next one is published or RESET. -/
theorem Effect.hasBeenRead {i : Instr} {s t : State} {k : Nat} (e : Effect i s t) (read : HasBeenRead k s)
    (hi : i ≠ .reset) (unpublished : ∀ r, i = .adcDone r → publishTarget s ≠ some k) : HasBeenRead k t := by
  obtain ⟨registered, unready⟩ := read
  refine ⟨?_, ?_⟩
  · rcases e.nchan_row with kept | ⟨_, added⟩ | reset
    · omega
    · omega
    · exact absurd reset hi
  · rcases e.chanAt_cases k with kept | ⟨r, v, converted, target, _⟩ | ⟨id, _, _, written⟩ |
        ⟨_, _, _, _, _, new, _⟩ | reset
    · rw [kept, unready]
    · exact absurd target (unpublished r converted)
    · rw [written]
    · omega
    · exact absurd reset hi

/-- The first read of a ready channel. -/
theorem hasBeenRead_of_exec_adcGet {s t : State} {id : Byte} (inv : MuxInv s) (h : s.hung = false)
    (registered : id.toNat < s.nchan) (ready : (s.chanAt id.toNat).ready = true)
    (executed : exec (.adcGet id) s = .next t) : HasBeenRead id.toNat t := by
  have inside : id.toNat < s.chan.length := by
    rw [inv.chan_length]
    exact registered.trans_le inv.nchan_le
  rw [exec_adcGet_of_not_hung id h, if_neg (Nat.not_le.mpr registered), if_pos ready] at executed
  cases executed
  refine ⟨registered, ?_⟩
  rw [answered_chanAt, chanAt_setChan _ inside, if_pos rfl]

theorem exec_adcGet_of_hasBeenRead {t : State} {id : Byte} (h : t.hung = false) (read : HasBeenRead id.toNat t) :
    exec (.adcGet id) t = .next (answered .noData [] t) := by
  obtain ⟨registered, unready⟩ := read
  rw [exec_adcGet_of_not_hung id h, if_neg (Nat.not_le.mpr registered), if_neg (Bool.eq_false_iff.mp unready)]

/-- Settles O47: a run that ends unhung without a RESET began unhung, so the first read was accepted; and the
result stays read up to the second. -/
theorem secondAdcGetHasNoData : Obligations.SecondAdcGetHasNoData := by
  intro s t id between inv registered ready done quiet run
  obtain ⟨u, executed, first⟩ := exists_effect (.adcGet id) s
  rw [execAll_cons executed] at run
  have quiet' (pre : List Instr) (i : Instr) (post : List Instr) (v : State) (split : between = pre ++ i :: post)
      (before : execAll pre u = .next v) := quiet pre post i v split ((execAll_cons executed pre).trans before)
  have accepted : s.hung = false := by
    refine Bool.eq_false_iff.mpr fun hung => Bool.eq_false_iff.mp done ?_
    refine execAll_keeps (P := fun s => s.hung = true) run (first.hung_of_hung hung (by simp)) ?_
    intro pre i post v w split before step stuck
    exact (effect_of_exec step).hung_of_hung stuck (quiet' pre i post v split before).1
  refine exec_adcGet_of_hasBeenRead done ?_
  refine execAll_keeps run (hasBeenRead_of_exec_adcGet inv accepted registered ready executed) ?_
  intro pre i post v w split before step read
  obtain ⟨notReset, unpublished⟩ := quiet' pre i post v split before
  exact (effect_of_exec step).hasBeenRead read notReset unpublished

end Sys2Proof.Machine
end

section
/-! Commuting steps (spec/20_memory.md R71, 60_exceptions.md R271): TICK and ADC_DONE write apart from each other
and apart from the display commands, and read nothing the other writes but the result of KEY_CHANNEL. -/

namespace Sys2Proof.Machine

theorem execAll_pair {i j : Instr} {s u t : State} (first : exec i s = .next u) (second : exec j u = .next t) :
    execAll [i, j] s = .next t := by
  rw [execAll_cons first, execAll_cons second, execAll]

/-! ### TICK and ADC_DONE (R271) -/

theorem takeReading_pushSample (r : Reading) (raw : KeyVec) (s : State) :
    takeReading r (pushSample raw s) = pushSample raw (takeReading r s) := by
  have chanAt_eq (k : Nat) : (pushSample raw s).chanAt k = s.chanAt k := rfl
  rw [takeReading_eq, takeReading_eq, pushSample_cnt, pushSample_cur, chanAt_eq]
  split <;> rfl

/-- The sample of a TICK reads the result of KEY_CHANNEL, which only its own publish changes. -/
theorem rawSample_takeReading {s : State} (h : s.cur ≠ s.cfg.keyChannel ∨ s.cnt + 1 ≠ (s.chanAt s.cur).ns)
    (r : Reading) : (takeReading r s).rawSample = s.rawSample := by
  have result_eq : (takeReading r s).chanAt s.cfg.keyChannel = s.chanAt s.cfg.keyChannel := by
    rcases takeReading_chanAt_cases r s s.cfg.keyChannel with kept | ⟨⟨full, channel⟩, _⟩
    · exact kept
    · exact absurd full (h.resolve_left (not_not_intro channel))
  funext pins
  simp only [State.rawSample, State.analogBits, takeReading_cfg, result_eq]

/-- Settles O58: idle, ADC_DONE does nothing; running, it leaves the sample of the TICK as it is. -/
theorem tickAndAdcDoneCommute : Obligations.TickAndAdcDoneCommute := by
  intro s pins r apart
  have ticked := exec_tick pins s
  rcases Bool.eq_false_or_eq_true s.running with running | idle
  · have unpublished := apart.resolve_left (Bool.not_eq_false _ ▸ running)
    refine ⟨pushSample (s.rawSample pins) (takeReading r s), execAll_pair ticked ?_,
      execAll_pair (exec_adcDone_of_running r running) ?_⟩
    · rw [exec_adcDone_of_running r (by exact running), takeReading_pushSample]
    · rw [exec_tick, rawSample_takeReading unpublished]
  · exact ⟨pushSample (s.rawSample pins) s, execAll_pair ticked (exec_adcDone_of_idle r idle),
      execAll_pair (exec_adcDone_of_idle r idle) ticked⟩

/-! ### Events and display commands (R71) -/

/-- The state `s` with what TICK and ADC_DONE write taken from `u`. -/
def State.withSamplesOf (s u : State) : State :=
  { s with ring := u.ring, ridx := u.ridx, stable := u.stable, changed := u.changed,
           chan := u.chan, cur := u.cur, acc := u.acc, cnt := u.cnt }

/-- An event writes its samples, which do not depend on the display group, the bus or the responses. -/
theorem exec_event_withDisplay {ev : Instr} (hev : isEvent ev = true) {s u : State} (h : exec ev s = .next u)
    (m : DisplayMemory) (tp : Template) (b : List BusEvent) (il : BitVec 3) (hg : Bool) (d : List Bool)
    (r : List Response) :
    exec ev { s with mem := m, tpl := tp, bus := b, initLeft := il, hung := hg, busDraws := d, rsp := r } =
      .next (State.withSamplesOf
        { s with mem := m, tpl := tp, bus := b, initLeft := il, hung := hg, busDraws := d, rsp := r } u) := by
  cases ev <;> simp only [isEvent, Bool.false_eq_true] at hev
  case tick pins =>
    cases h
    rfl
  case adcDone r' =>
    rcases Bool.eq_false_or_eq_true s.running with running | idle
    · rw [exec_adcDone_of_running r' running, takeReading_eq] at h
      rw [exec_adcDone_of_running r' (by exact running), takeReading_eq]
      by_cases full : s.cnt + 1 = (s.chanAt s.cur).ns
      · rw [if_pos full] at h
        cases h
        exact congrArg _ (if_pos full)
      · rw [if_neg full] at h
        cases h
        exact congrArg _ (if_neg full)
    · rw [exec_adcDone_of_idle r' idle] at h
      cases h
      exact exec_adcDone_of_idle r' idle

theorem respond_withSamplesOf (st : Status) (s u : State) :
    respond st [] (s.withSamplesOf u) = (respond st [] s).withSamplesOf u := by
  have hung_eq : (s.withSamplesOf u).hung = s.hung := rfl
  rw [respond, respond, hung_eq]
  split <;> rfl

/-- Frames neither read nor write the samples (40_display.md R130). -/
theorem emitFrames_withSamplesOf (n : Nat) (s u : State) :
    emitFrames n (s.withSamplesOf u) = (emitFrames n s).withSamplesOf u := by
  rcases Bool.eq_false_or_eq_true s.hung with hung | h
  · rw [emitFrames_of_hung hung, emitFrames_of_hung (by exact hung)]
  · rcases Bool.eq_false_or_eq_true s.cfg.busMayHang with hm | hm
    · rw [emitFrames_mayHang n h hm, emitFrames_mayHang n (by exact h) (by exact hm)]
      rfl
    · rw [emitFrames_of_noHang n h hm, emitFrames_of_noHang n (by exact h) (by exact hm)]
      rfl

theorem flushOf_withSamplesOf {i : Instr} {s p : State} {n : Nat} {st : Status} (hf : flushOf i s = some (n, p, st))
    (u : State) : flushOf i (s.withSamplesOf u) = some (n, p.withSamplesOf u, st) := by
  cases i <;> simp only [flushOf, reduceCtorEq] at hf
  case dispInit | dispFlush | dispClear | dispPuts =>
    cases hf
    rfl
  case dispPutc | dispSym =>
    split at hf <;> cases hf
    next writes => exact if_pos writes

/-- A display command neither reads nor writes the samples. -/
theorem exec_display_withSamplesOf {i : Instr} (hi : isDisplay i = true) {s t : State} (h : exec i s = .next t)
    (u : State) : exec i (s.withSamplesOf u) = .next (t.withSamplesOf u) := by
  rcases Bool.eq_false_or_eq_true s.hung with hung | unhung
  · have command := isCommand_of_isDisplay hi
    rw [exec_of_hung command hung] at h
    cases h
    exact exec_of_hung command hung
  cases hf : flushOf i s with
  | some f =>
    obtain ⟨n, p, st⟩ := f
    rw [exec_of_flushOf_some unhung hf] at h
    cases h
    rw [exec_of_flushOf_some (by exact unhung) (flushOf_withSamplesOf hf u), emitFrames_withSamplesOf,
      respond_withSamplesOf]
  | none =>
    cases i with
    | nop =>
      rw [exec_nop_of_not_hung unhung] at h
      cases h
      exact exec_nop_of_not_hung unhung
    | unknown op =>
      rw [exec_unknown_of_not_hung op unhung] at h
      cases h
      exact exec_unknown_of_not_hung op unhung
    | dispSettpl cu p dr sc bu =>
      rw [exec_dispSettpl_of_not_hung cu p dr sc bu unhung] at h
      cases h
      exact exec_dispSettpl_of_not_hung cu p dr sc bu unhung
    | dispPutc pos chr =>
      have bad : charOk pos.toNat chr = false := by simpa [flushOf, charOk] using hf
      rw [exec_dispPutc_of_not_charOk unhung bad] at h
      cases h
      exact exec_dispPutc_of_not_charOk unhung bad
    | dispSym sym en =>
      have bad : s.cfg.numIcons ≤ sym.toNat := by simpa [flushOf] using hf
      rw [exec_dispSym_of_numIcons_le unhung bad] at h
      cases h
      exact exec_dispSym_of_numIcons_le unhung bad
    | dispInit | dispClear | dispFlush | dispPuts _ _ => cases hf
    | _ => cases hi

/-- Settles O57: an event only writes its samples, and a display command only the rest. -/
theorem eventsAndDisplayCommandsCommute : Obligations.EventsAndDisplayCommandsCommute := by
  intro s i ev hi hev
  obtain ⟨u, served, _⟩ := exists_effect ev s
  obtain ⟨m, tp, b, il, hg, d, r, displayed, _⟩ := exec_display_writes hi s
  have samples : u = s.withSamplesOf u := by
    have again := exec_event_withDisplay hev served s.mem s.tpl s.bus s.initLeft s.hung s.busDraws s.rsp
    simpa [served] using again
  have after_event := exec_display_withSamplesOf hi displayed u
  rw [← samples] at after_event
  exact ⟨_, execAll_pair displayed (exec_event_withDisplay hev served m tp b il hg d r),
    execAll_pair served after_event⟩

end Sys2Proof.Machine
end
